-- ==== Sys2Proof/Word.lean ====
section
/-! DEFINITION. The word types of the Black Widow core and nothing more. -/

namespace Sys2Proof

/-- A general register, the datapath, a constant: XLEN = 128 bits (R5, R20). -/
abbrev Word := BitVec 128

/-- An address and the instruction pointer: ALEN = 128 bits (R5, R27, R50). -/
abbrev Addr := BitVec 128

/-- An instruction: ILEN = 40 bits, bit 39 the most significant (R6, R80). -/
abbrev IWord := BitVec 40

/-- The unit of memory (R50). -/
abbrev Byte := BitVec 8

/-- The number of a general register, a 6-bit field (R20). -/
abbrev RegNum := BitVec 6

/-- The number of a predicate register, a 6-bit field (R24). -/
abbrev PredNum := BitVec 6

end Sys2Proof
end

