-- ==== Sys2Proof/Config.lean ====
section
/-! DEFINITION. What the spec leaves to a launch or to an implementation: the kinds of its open parameters
(R5 and the last table of 92_eei_decisions.md), the values the model names where the spec gives none, and the one
free value. -/

namespace Sys2Proof

/-- MISALIGNED (R54): a misaligned data access is refused, or split into its bytes. -/
inductive Misaligned where
  | refuse | split
deriving DecidableEq, Repr

/-- BREAK_POLARITY (R99): B = 1 means a break follows the instruction, or stands before it. -/
inductive BreakPolarity where
  | after | before
deriving DecidableEq, Repr

/-- CMP_PT2 (R171, D13): a compare writes to Pt2 the complement of the relation, the relation itself, or nothing. -/
inductive CmpPt2 where
  | complement | same | unwritten
deriving DecidableEq, Repr

/-- BCBS (R182, D14): relations 6 and 7 are refused, or test one bit. -/
inductive BcBs where
  | refuse | bitTest
deriving DecidableEq, Repr

/-- BRANCH_TEST (R203, D16): BNZ and BZ test the predicate, or the general register, named in bits 5..0. -/
inductive BranchTest where
  | predicate | gpr
deriving DecidableEq, Repr

/-- CON_A (R255, D23): the constant prefixes are refused, or admitted with the constant bits that no rule determines
left free (`Config.conUpper`). -/
inductive ConPolicy where
  | refuse | free
deriving DecidableEq, Repr

/-- Which of the four constant prefixes supplied a chunk (R34, R253). -/
inductive ConNum where
  | con1 | con2 | con3 | con4
deriving DecidableEq, Repr

/-- IP_STRIDE (R5, R28): instructions lie 5 bytes apart. -/
def Config.ipStride : Addr := 5#128

/-- RESET_IP (R37) is OPEN. DESIGN CHOICE, unsafe (log 3): the base of program P1 of 95_test_vectors.md. -/
def Config.resetIp : Addr := 0x1000#128

/-- R1 to R63 at reset. DESIGN CHOICE, unsafe (log 1): the spec gives no value and says zero must not be assumed (R321). -/
def Config.resetReg : Word := 0xA5A5A5A5A5A5A5A5A5A5A5A5A5A5A5A0#128

/-- P2 to P63 at reset. DESIGN CHOICE, unsafe (log 2): the spec gives no value and says zero must not be assumed (R321). -/
def Config.resetPred : Bool := true

/-- What a byte that neither the launch nor a store has written reads as. DESIGN CHOICE, unsafe (log 4): the launch
conventions of 95_test_vectors.md start data bytes at 0. -/
def Config.unlistedByte : Byte := 0#8

/-- FREE VALUE (log 9). The bits of a constant above the `n` bits that the modified instruction's own immediate `v`
supplies, when the CON prefixes `chunks` (in program order) stand before it: R253 to R255 do not determine them.
It has no body, so nothing can be proved about its value. -/
opaque Config.conUpper : List (ConNum × BitVec 27) → (n v : Nat) → BitVec 128

end Sys2Proof
end

