-- ==== Sys2Proof/Syntax.lean ====
section
/-! DEFINITION. The instructions, one constructor for each row of spec/opcode_table.json, in the table's order. A
constructor's arguments are the row's fields from the most significant bit down; `brk` is bit 39, B (R82, R99). A
named-only word keeps the bits that no rule explains in `rest` or `op3`, so that no bit of it is lost. -/

namespace Sys2Proof

/-- The relation Op3 of a compare or set instruction (R95, R170). -/
inductive Rel where
  | lt | ge | le | gt | eq | ne | bc | bs
deriving DecidableEq, Repr

/-- The instructions of the Black Widow core (R3, R93, R94, R102, R103). -/
inductive Instr where
  /-- SYS, major 0, named only (R281). -/
  | sys (brk : Bool) (rest : BitVec 33)
  /-- MOD, major 1, named only (R281). -/
  | mod (brk : Bool) (rest : BitVec 33)
  /-- the FLT group, major 3, named only (R281). -/
  | flt (brk : Bool) (rest : BitVec 33)
  /-- ADDI (R132). -/
  | addi (brk : Bool) (imm : BitVec 15) (ra rt : RegNum) (pr : PredNum)
  /-- SUBFI (R134). -/
  | subfi (brk : Bool) (imm : BitVec 15) (ra rt : RegNum) (pr : PredNum)
  /-- ANDI (R136). -/
  | andi (brk : Bool) (imm : BitVec 15) (ra rt : RegNum) (pr : PredNum)
  /-- ORI (R138). -/
  | ori (brk : Bool) (imm : BitVec 15) (ra rt : RegNum) (pr : PredNum)
  /-- XORI (R140). -/
  | xori (brk : Bool) (imm : BitVec 15) (ra rt : RegNum) (pr : PredNum)
  /-- MULI (R147). -/
  | muli (brk : Bool) (imm : BitVec 15) (ra rt : RegNum) (pr : PredNum)
  /-- BNZ; bits 5..0 name the predicate tested (R196). -/
  | bnz (brk : Bool) (disp : BitVec 27) (pr : PredNum)
  /-- BZ; bits 5..0 name the predicate tested (R197). -/
  | bz (brk : Bool) (disp : BitVec 27) (pr : PredNum)
  /-- BRA, the name of BZ P0 for an assembler; a decoder yields BZ (R105, R198). -/
  | bra (brk : Bool) (disp : BitVec 27)
  /-- BSR (R199). -/
  | bsr (brk : Bool) (disp : BitVec 27) (pr : PredNum)
  /-- CMP (R171). -/
  | cmp (brk : Bool) (rel : Rel) (pt2 pt1 : PredNum) (rb ra : RegNum) (pr : PredNum)
  /-- CMPU (R172). -/
  | cmpu (brk : Bool) (rel : Rel) (pt2 pt1 : PredNum) (rb ra : RegNum) (pr : PredNum)
  /-- FCMP, named only (R175). -/
  | fcmp (brk : Bool) (op3 : BitVec 3) (pt2 pt1 : PredNum) (rb ra : RegNum) (pr : PredNum)
  /-- the second CMP of the map, named only (R176). -/
  | cmp19 (brk : Bool) (op3 : BitVec 3) (pt2 pt1 : PredNum) (rb ra : RegNum) (pr : PredNum)
  /-- CMPI (R173). -/
  | cmpi (brk : Bool) (rel : Rel) (pt2 pt1 : PredNum) (imm : BitVec 6) (ra : RegNum) (pr : PredNum)
  /-- CMPUI (R174). -/
  | cmpui (brk : Bool) (rel : Rel) (pt2 pt1 : PredNum) (imm : BitVec 6) (ra : RegNum) (pr : PredNum)
  /-- FCMPI, named only (R175). -/
  | fcmpi (brk : Bool) (op3 : BitVec 3) (pt2 pt1 : PredNum) (imm : BitVec 6) (ra : RegNum) (pr : PredNum)
  /-- the second CMPI of the map, named only (R176). -/
  | cmpi23 (brk : Bool) (op3 : BitVec 3) (pt2 pt1 : PredNum) (imm : BitVec 6) (ra : RegNum) (pr : PredNum)
  /-- FDP, named only (R281). -/
  | fdp (brk : Bool) (rest : BitVec 33)
  /-- FFDP, named only (R281). -/
  | ffdp (brk : Bool) (rest : BitVec 33)
  /-- SETI (R179). -/
  | seti (brk : Bool) (rel : Rel) (imm : BitVec 12) (ra rt : RegNum) (pr : PredNum)
  /-- SETUI (R180). -/
  | setui (brk : Bool) (rel : Rel) (imm : BitVec 12) (ra rt : RegNum) (pr : PredNum)
  /-- FSETI, named only (R181). -/
  | fseti (brk : Bool) (op3 : BitVec 3) (imm : BitVec 12) (ra rt : RegNum) (pr : PredNum)
  /-- LDB (R211). -/
  | ldb (brk : Bool) (imm : BitVec 15) (ra rt : RegNum) (pr : PredNum)
  /-- LDBU (R212). -/
  | ldbu (brk : Bool) (imm : BitVec 15) (ra rt : RegNum) (pr : PredNum)
  /-- LDW (R213). -/
  | ldw (brk : Bool) (imm : BitVec 15) (ra rt : RegNum) (pr : PredNum)
  /-- LDWU (R214). -/
  | ldwu (brk : Bool) (imm : BitVec 15) (ra rt : RegNum) (pr : PredNum)
  /-- LDT (R215). -/
  | ldt (brk : Bool) (imm : BitVec 15) (ra rt : RegNum) (pr : PredNum)
  /-- LDTU (R216). -/
  | ldtu (brk : Bool) (imm : BitVec 15) (ra rt : RegNum) (pr : PredNum)
  /-- LDO (R217). -/
  | ldo (brk : Bool) (imm : BitVec 15) (ra rt : RegNum) (pr : PredNum)
  /-- LDOU (R218). -/
  | ldou (brk : Bool) (imm : BitVec 15) (ra rt : RegNum) (pr : PredNum)
  /-- LDH (R219). -/
  | ldh (brk : Bool) (imm : BitVec 15) (ra rt : RegNum) (pr : PredNum)
  /-- LDHR, named only (R246). -/
  | ldhr (brk : Bool) (imm : BitVec 15) (ra rt : RegNum) (pr : PredNum)
  /-- STB (R229). -/
  | stb (brk : Bool) (imm : BitVec 15) (ra rs : RegNum) (pr : PredNum)
  /-- STW (R230). -/
  | stw (brk : Bool) (imm : BitVec 15) (ra rs : RegNum) (pr : PredNum)
  /-- STT (R231). -/
  | stt (brk : Bool) (imm : BitVec 15) (ra rs : RegNum) (pr : PredNum)
  /-- STO (R232). -/
  | sto (brk : Bool) (imm : BitVec 15) (ra rs : RegNum) (pr : PredNum)
  /-- STH (R233). -/
  | sth (brk : Bool) (imm : BitVec 15) (ra rs : RegNum) (pr : PredNum)
  /-- STHC, named only (R246). -/
  | sthc (brk : Bool) (imm : BitVec 15) (ra rs : RegNum) (pr : PredNum)
  /-- CON4 (R253, R255). -/
  | con4 (brk : Bool) (imm : BitVec 27) (pr : PredNum)
  /-- NOP; bits 32..0 are ignored (R201). -/
  | nop (brk : Bool) (ignored : BitVec 33)
  /-- CON1 (R253, R255). -/
  | con1 (brk : Bool) (imm : BitVec 27) (pr : PredNum)
  /-- CON2 (R253, R255). -/
  | con2 (brk : Bool) (imm : BitVec 27) (pr : PredNum)
  /-- CON3 (R253, R255). -/
  | con3 (brk : Bool) (imm : BitVec 27) (pr : PredNum)
  /-- SLL, register form (R148). -/
  | sll (brk : Bool) (rb ra rt : RegNum) (pr : PredNum)
  /-- SLL, immediate form (R149). -/
  | slli (brk : Bool) (imm : BitVec 7) (ra rt : RegNum) (pr : PredNum)
  /-- SLL.E, register form (R150). -/
  | sllE (brk : Bool) (rb ra rt : RegNum) (pr : PredNum)
  /-- SLL.E, immediate form (R150). -/
  | sllEi (brk : Bool) (imm : BitVec 7) (ra rt : RegNum) (pr : PredNum)
  /-- SRL, register form (R151). -/
  | srl (brk : Bool) (rb ra rt : RegNum) (pr : PredNum)
  /-- SRL, immediate form (R152). -/
  | srli (brk : Bool) (imm : BitVec 7) (ra rt : RegNum) (pr : PredNum)
  /-- SRL.E, register form (R155). -/
  | srlE (brk : Bool) (rb ra rt : RegNum) (pr : PredNum)
  /-- SRL.E, immediate form (R155). -/
  | srlEi (brk : Bool) (imm : BitVec 7) (ra rt : RegNum) (pr : PredNum)
  /-- SRA, register form (R153). -/
  | sra (brk : Bool) (rb ra rt : RegNum) (pr : PredNum)
  /-- SRA, immediate form (R154). -/
  | srai (brk : Bool) (imm : BitVec 7) (ra rt : RegNum) (pr : PredNum)
  /-- SRA.E, register form (R155). -/
  | sraE (brk : Bool) (rb ra rt : RegNum) (pr : PredNum)
  /-- SRA.E, immediate form (R155). -/
  | sraEi (brk : Bool) (imm : BitVec 7) (ra rt : RegNum) (pr : PredNum)
  /-- ADD (R131). -/
  | add (brk : Bool) (rb ra rt : RegNum) (pr : PredNum)
  /-- SUB (R133). -/
  | sub (brk : Bool) (rb ra rt : RegNum) (pr : PredNum)
  /-- AND (R135). -/
  | and (brk : Bool) (rb ra rt : RegNum) (pr : PredNum)
  /-- OR (R137). -/
  | or (brk : Bool) (rb ra rt : RegNum) (pr : PredNum)
  /-- XOR (R139). -/
  | xor (brk : Bool) (rb ra rt : RegNum) (pr : PredNum)
  /-- MUL.S (R144). -/
  | mulS (brk : Bool) (rb ra rt : RegNum) (pr : PredNum)
  /-- MUL.U (R144). -/
  | mulU (brk : Bool) (rb ra rt : RegNum) (pr : PredNum)
  /-- MUL.SU (R144). -/
  | mulSu (brk : Bool) (rb ra rt : RegNum) (pr : PredNum)
  /-- MUL.OP4 (R146). -/
  | mulOp4 (brk : Bool) (rb ra rt : RegNum) (pr : PredNum)
  /-- MUL.OP5 (R146). -/
  | mulOp5 (brk : Bool) (rb ra rt : RegNum) (pr : PredNum)
  /-- MUL.OP6 (R146). -/
  | mulOp6 (brk : Bool) (rb ra rt : RegNum) (pr : PredNum)
  /-- MUL.OP7 (R146). -/
  | mulOp7 (brk : Bool) (rb ra rt : RegNum) (pr : PredNum)
  /-- JMR (R200). -/
  | jmr (brk : Bool) (ra rt : RegNum) (pr : PredNum)
  /-- NAND (R141). -/
  | nand (brk : Bool) (rb ra rt : RegNum) (pr : PredNum)
  /-- NOR (R142). -/
  | nor (brk : Bool) (rb ra rt : RegNum) (pr : PredNum)
  /-- XNOR (R143). -/
  | xnor (brk : Bool) (rb ra rt : RegNum) (pr : PredNum)
  /-- SET (R177). -/
  | set (brk : Bool) (rel : Rel) (rb ra rt : RegNum) (pr : PredNum)
  /-- SETU (R178). -/
  | setu (brk : Bool) (rel : Rel) (rb ra rt : RegNum) (pr : PredNum)
  /-- FSET, named only (R181). -/
  | fset (brk : Bool) (op3 : BitVec 3) (rb ra rt : RegNum) (pr : PredNum)
  /-- LDBX (R220). -/
  | ldbx (brk : Bool) (rb ra rt : RegNum) (pr : PredNum)
  /-- LDBUX (R221). -/
  | ldbux (brk : Bool) (rb ra rt : RegNum) (pr : PredNum)
  /-- LDWX (R222). -/
  | ldwx (brk : Bool) (rb ra rt : RegNum) (pr : PredNum)
  /-- LDWUX (R223). -/
  | ldwux (brk : Bool) (rb ra rt : RegNum) (pr : PredNum)
  /-- LDTX (R224). -/
  | ldtx (brk : Bool) (rb ra rt : RegNum) (pr : PredNum)
  /-- LDTUX (R225). -/
  | ldtux (brk : Bool) (rb ra rt : RegNum) (pr : PredNum)
  /-- LDOX (R226). -/
  | ldox (brk : Bool) (rb ra rt : RegNum) (pr : PredNum)
  /-- LDOUX (R227). -/
  | ldoux (brk : Bool) (rb ra rt : RegNum) (pr : PredNum)
  /-- LDHX (R228). -/
  | ldhx (brk : Bool) (rb ra rt : RegNum) (pr : PredNum)
  /-- LDHRX, named only (R246). -/
  | ldhrx (brk : Bool) (op3 : BitVec 3) (rb ra rt : RegNum) (pr : PredNum)
  /-- LDCHK, named only (R246). -/
  | ldchk (brk : Bool) (op3 : BitVec 3) (rb ra rt : RegNum) (pr : PredNum)
  /-- STBX, index from the REG before it (R241). -/
  | stbx (brk : Bool) (ra rs : RegNum) (pr : PredNum)
  /-- STWX, index from the REG before it (R242). -/
  | stwx (brk : Bool) (ra rs : RegNum) (pr : PredNum)
  /-- STTX, index from the REG before it (R243). -/
  | sttx (brk : Bool) (ra rs : RegNum) (pr : PredNum)
  /-- STOX, index from the REG before it (R244). -/
  | stox (brk : Bool) (ra rs : RegNum) (pr : PredNum)
  /-- STHX, index from the REG before it (R245). -/
  | sthx (brk : Bool) (ra rs : RegNum) (pr : PredNum)
  /-- STHCX, named only (R246). -/
  | sthcx (brk : Bool) (op3 : BitVec 3) (rb ra rs : RegNum) (pr : PredNum)
  /-- REG, the register prefix (R257). -/
  | reg (brk : Bool) (rb ra rt : RegNum) (pr : PredNum)
  /-- CSR, drawn in Layout C (R190). -/
  | csr (op2 m2 : BitVec 2) (csr : BitVec 10) (ra rt : BitVec 5) (pr : PredNum)
  /-- CARRY, drawn in Layout C (R251). -/
  | carry (io7 io6 io5 io4 io3 io2 io1 io0 : BitVec 2) (rt : BitVec 5) (pr : PredNum)
deriving DecidableEq, Repr

end Sys2Proof
end

