-- ==== Sys2Proof/WellFormed.lean ====
section
/-! DEFINITION. Which instructions a well-formed program image may hold when the parameters have the spec's defaults:
those that spell a Layout A word of their own and have a rule (R323), checked word by word. The widths of the fields
need no check, because their types carry them. -/

namespace Sys2Proof

/-- A word of its own under Layout A (R81): not the second name BRA (R198), not a Layout C word (R103). -/
def Instr.inLayoutA : Instr → Bool
  | .bra .. | .csr .. | .carry .. => false
  | .sys .. | .mod .. | .flt .. | .addi .. | .subfi .. | .andi .. | .ori .. | .xori .. | .muli .. | .bnz ..
  | .bz .. | .bsr .. | .cmp .. | .cmpu .. | .fcmp .. | .cmp19 .. | .cmpi .. | .cmpui .. | .fcmpi ..
  | .cmpi23 .. | .fdp .. | .ffdp .. | .seti .. | .setui .. | .fseti .. | .ldb .. | .ldbu .. | .ldw ..
  | .ldwu .. | .ldt .. | .ldtu .. | .ldo .. | .ldou .. | .ldh .. | .ldhr .. | .stb .. | .stw .. | .stt ..
  | .sto .. | .sth .. | .sthc .. | .con4 .. | .nop .. | .con1 .. | .con2 .. | .con3 .. | .sll .. | .slli ..
  | .sllE .. | .sllEi .. | .srl .. | .srli .. | .srlE .. | .srlEi .. | .sra .. | .srai .. | .sraE ..
  | .sraEi .. | .add .. | .sub .. | .and .. | .or .. | .xor .. | .mulS .. | .mulU .. | .mulSu .. | .mulOp4 ..
  | .mulOp5 .. | .mulOp6 .. | .mulOp7 .. | .jmr .. | .nand .. | .nor .. | .xnor .. | .set .. | .setu ..
  | .fset .. | .ldbx .. | .ldbux .. | .ldwx .. | .ldwux .. | .ldtx .. | .ldtux .. | .ldox .. | .ldoux ..
  | .ldhx .. | .ldhrx .. | .ldchk .. | .stbx .. | .stwx .. | .sttx .. | .stox .. | .sthx .. | .sthcx ..
  | .reg .. => true

/-- The instruction has a rule: it is not named only (R97), not a constant prefix (R255), not an extended right shift
(R155), not CSR or CARRY (R193, R252). -/
def Instr.hasRule : Instr → Bool
  | .sys .. | .mod .. | .flt .. | .fcmp .. | .cmp19 .. | .fcmpi .. | .cmpi23 .. | .fdp .. | .ffdp ..
  | .fseti .. | .ldhr .. | .sthc .. | .con4 .. | .con1 .. | .con2 .. | .con3 .. | .srlE .. | .srlEi ..
  | .sraE .. | .sraEi .. | .fset .. | .ldhrx .. | .ldchk .. | .sthcx .. | .csr .. | .carry .. => false
  | .addi .. | .subfi .. | .andi .. | .ori .. | .xori .. | .muli .. | .bnz .. | .bz .. | .bra .. | .bsr ..
  | .cmp .. | .cmpu .. | .cmpi .. | .cmpui .. | .seti .. | .setui .. | .ldb .. | .ldbu .. | .ldw .. | .ldwu ..
  | .ldt .. | .ldtu .. | .ldo .. | .ldou .. | .ldh .. | .stb .. | .stw .. | .stt .. | .sto .. | .sth ..
  | .nop .. | .sll .. | .slli .. | .sllE .. | .sllEi .. | .srl .. | .srli .. | .sra .. | .srai .. | .add ..
  | .sub .. | .and .. | .or .. | .xor .. | .mulS .. | .mulU .. | .mulSu .. | .mulOp4 .. | .mulOp5 ..
  | .mulOp6 .. | .mulOp7 .. | .jmr .. | .nand .. | .nor .. | .xnor .. | .set .. | .setu .. | .ldbx ..
  | .ldbux .. | .ldwx .. | .ldwux .. | .ldtx .. | .ldtux .. | .ldox .. | .ldoux .. | .ldhx .. | .stbx ..
  | .stwx .. | .sttx .. | .stox .. | .sthx .. | .reg .. => true

/-- The relation field, of the instructions that have one (R170). -/
def Instr.relation : Instr → Option Rel
  | .cmp _ rel _ _ _ _ _ => some rel
  | .cmpu _ rel _ _ _ _ _ => some rel
  | .cmpi _ rel _ _ _ _ _ => some rel
  | .cmpui _ rel _ _ _ _ _ => some rel
  | .seti _ rel _ _ _ _ => some rel
  | .setui _ rel _ _ _ _ => some rel
  | .set _ rel _ _ _ _ => some rel
  | .setu _ rel _ _ _ _ => some rel
  | .sys .. | .mod .. | .flt .. | .addi .. | .subfi .. | .andi .. | .ori .. | .xori .. | .muli .. | .bnz ..
  | .bz .. | .bra .. | .bsr .. | .fcmp .. | .cmp19 .. | .fcmpi .. | .cmpi23 .. | .fdp .. | .ffdp .. | .fseti ..
  | .ldb .. | .ldbu .. | .ldw .. | .ldwu .. | .ldt .. | .ldtu .. | .ldo .. | .ldou .. | .ldh .. | .ldhr ..
  | .stb .. | .stw .. | .stt .. | .sto .. | .sth .. | .sthc .. | .con4 .. | .nop .. | .con1 .. | .con2 ..
  | .con3 .. | .sll .. | .slli .. | .sllE .. | .sllEi .. | .srl .. | .srli .. | .srlE .. | .srlEi .. | .sra ..
  | .srai .. | .sraE .. | .sraEi .. | .add .. | .sub .. | .and .. | .or .. | .xor .. | .mulS .. | .mulU ..
  | .mulSu .. | .mulOp4 .. | .mulOp5 .. | .mulOp6 .. | .mulOp7 .. | .jmr .. | .nand .. | .nor .. | .xnor ..
  | .fset .. | .ldbx .. | .ldbux .. | .ldwx .. | .ldwux .. | .ldtx .. | .ldtux .. | .ldox .. | .ldoux ..
  | .ldhx .. | .ldhrx .. | .ldchk .. | .stbx .. | .stwx .. | .sttx .. | .stox .. | .sthx .. | .sthcx ..
  | .reg .. | .csr .. | .carry .. => none

/-- The predicate targets Pt1 and Pt2, of the instructions that have them (R86, R87). -/
def Instr.predTargets : Instr → Option (PredNum × PredNum)
  | .cmp _ _ pt2 pt1 _ _ _ => some (pt1, pt2)
  | .cmpu _ _ pt2 pt1 _ _ _ => some (pt1, pt2)
  | .cmpi _ _ pt2 pt1 _ _ _ => some (pt1, pt2)
  | .cmpui _ _ pt2 pt1 _ _ _ => some (pt1, pt2)
  | .sys .. | .mod .. | .flt .. | .addi .. | .subfi .. | .andi .. | .ori .. | .xori .. | .muli .. | .bnz ..
  | .bz .. | .bra .. | .bsr .. | .fcmp .. | .cmp19 .. | .fcmpi .. | .cmpi23 .. | .fdp .. | .ffdp .. | .seti ..
  | .setui .. | .fseti .. | .ldb .. | .ldbu .. | .ldw .. | .ldwu .. | .ldt .. | .ldtu .. | .ldo .. | .ldou ..
  | .ldh .. | .ldhr .. | .stb .. | .stw .. | .stt .. | .sto .. | .sth .. | .sthc .. | .con4 .. | .nop ..
  | .con1 .. | .con2 .. | .con3 .. | .sll .. | .slli .. | .sllE .. | .sllEi .. | .srl .. | .srli .. | .srlE ..
  | .srlEi .. | .sra .. | .srai .. | .sraE .. | .sraEi .. | .add .. | .sub .. | .and .. | .or .. | .xor ..
  | .mulS .. | .mulU .. | .mulSu .. | .mulOp4 .. | .mulOp5 .. | .mulOp6 .. | .mulOp7 .. | .jmr .. | .nand ..
  | .nor .. | .xnor .. | .set .. | .setu .. | .fset .. | .ldbx .. | .ldbux .. | .ldwx .. | .ldwux .. | .ldtx ..
  | .ldtux .. | .ldox .. | .ldoux .. | .ldhx .. | .ldhrx .. | .ldchk .. | .stbx .. | .stwx .. | .sttx ..
  | .stox .. | .sthx .. | .sthcx .. | .reg .. | .csr .. | .carry .. => none

/-- The relation is one of the six the source explains (R182). -/
def Instr.relationDefined (i : Instr) : Bool :=
  i.relation != some .bc && i.relation != some .bs

/-- Two predicates above P1 that name the same predicate (R171). -/
def sameTargets (pt1 pt2 : PredNum) : Bool :=
  pt1 == pt2 && decide (1 < pt1.toNat)

/-- The two predicate targets do not conflict (R171). -/
def Instr.targetsDistinct (i : Instr) : Bool :=
  match i.predTargets with
  | some (pt1, pt2) => !sameTargets pt1 pt2
  | none => true

/-- A REG with B = 1 has a break between itself and its user (R250, R256). -/
def Instr.joinsItsUser : Instr → Bool
  | .reg brk _ _ _ _ => !brk
  | .sys .. | .mod .. | .flt .. | .addi .. | .subfi .. | .andi .. | .ori .. | .xori .. | .muli .. | .bnz ..
  | .bz .. | .bra .. | .bsr .. | .cmp .. | .cmpu .. | .fcmp .. | .cmp19 .. | .cmpi .. | .cmpui .. | .fcmpi ..
  | .cmpi23 .. | .fdp .. | .ffdp .. | .seti .. | .setui .. | .fseti .. | .ldb .. | .ldbu .. | .ldw ..
  | .ldwu .. | .ldt .. | .ldtu .. | .ldo .. | .ldou .. | .ldh .. | .ldhr .. | .stb .. | .stw .. | .stt ..
  | .sto .. | .sth .. | .sthc .. | .con4 .. | .nop .. | .con1 .. | .con2 .. | .con3 .. | .sll .. | .slli ..
  | .sllE .. | .sllEi .. | .srl .. | .srli .. | .srlE .. | .srlEi .. | .sra .. | .srai .. | .sraE ..
  | .sraEi .. | .add .. | .sub .. | .and .. | .or .. | .xor .. | .mulS .. | .mulU .. | .mulSu .. | .mulOp4 ..
  | .mulOp5 .. | .mulOp6 .. | .mulOp7 .. | .jmr .. | .nand .. | .nor .. | .xnor .. | .set .. | .setu ..
  | .fset .. | .ldbx .. | .ldbux .. | .ldwx .. | .ldwux .. | .ldtx .. | .ldtux .. | .ldox .. | .ldoux ..
  | .ldhx .. | .ldhrx .. | .ldchk .. | .stbx .. | .stwx .. | .sttx .. | .stox .. | .sthx .. | .sthcx ..
  | .csr .. | .carry .. => true

/-- Well-formed under the spec's default parameters. -/
def WellFormed (i : Instr) : Bool :=
  i.inLayoutA && i.hasRule && i.relationDefined && i.targetsDistinct && i.joinsItsUser

end Sys2Proof
end

