-- ==== Sys2Proof/Decode.lean ====
section
/-! DEFINITION. Decoding of Layout A words (R80 to R101) and of the two Layout C words (R103), the encoder, and the
byte order of a fetched word (R66). -/

namespace Sys2Proof

/-- What a word spells: an instruction, no instruction (R96), a word with an unused bit set (R98), or too few bytes. -/
inductive Decoded where
  | ok (i : Instr)
  | illegal
  | unusedBits
  | truncated
deriving DecidableEq, Repr

/-- The field of `n` bits of `w` whose least significant bit is bit `lo` (R6). -/
def bits (w : IWord) (lo n : Nat) : BitVec n := w.extractLsb' lo n

/-- Bit 39, B (R82). -/
def brkOf (w : IWord) : Bool := w.getLsbD 39

/-- The relation an Op3 field names (R95, R170). -/
def Rel.ofBits (op3 : BitVec 3) : Rel :=
  match op3.toNat with
  | 0 => .lt | 1 => .ge | 2 => .le | 3 => .gt | 4 => .eq | 5 => .ne | 6 => .bc | _ => .bs

/-- The Op3 field of a relation (R95, R170). -/
def Rel.toBits : Rel → BitVec 3
  | .lt => 0 | .ge => 1 | .le => 2 | .gt => 3 | .eq => 4 | .ne => 5 | .bc => 6 | .bs => 7

/-- The instruction, unless an unused bit is set (R98). -/
def ifUnusedZero {n : Nat} (unused : BitVec n) (i : Instr) : Decoded :=
  if unused = 0 then .ok i else .unusedBits

/-- The four forms a shift function has by bits 26 (immediate) and 25 (e); bit 24 of a register form is unused (R90). -/
def shiftForm (w : IWord) (register registerE immediate immediateE : Instr) : Decoded :=
  if w.getLsbD 26 then
    .ok (if w.getLsbD 25 then immediateE else immediate)
  else
    ifUnusedZero (bits w 24 1) (if w.getLsbD 25 then registerE else register)

/-- MUL by its Op3, bits 26..24; 3 is an empty row of its table (R96, R144). -/
def decodeMul (w : IWord) : Decoded :=
  match (bits w 24 3).toNat with
  | 0 => .ok (.mulS (brkOf w) (bits w 18 6) (bits w 12 6) (bits w 6 6) (bits w 0 6))
  | 1 => .ok (.mulU (brkOf w) (bits w 18 6) (bits w 12 6) (bits w 6 6) (bits w 0 6))
  | 2 => .ok (.mulSu (brkOf w) (bits w 18 6) (bits w 12 6) (bits w 6 6) (bits w 0 6))
  | 4 => .ok (.mulOp4 (brkOf w) (bits w 18 6) (bits w 12 6) (bits w 6 6) (bits w 0 6))
  | 5 => .ok (.mulOp5 (brkOf w) (bits w 18 6) (bits w 12 6) (bits w 6 6) (bits w 0 6))
  | 6 => .ok (.mulOp6 (brkOf w) (bits w 18 6) (bits w 12 6) (bits w 6 6) (bits w 0 6))
  | 7 => .ok (.mulOp7 (brkOf w) (bits w 18 6) (bits w 12 6) (bits w 6 6) (bits w 0 6))
  | _ => .illegal

/-- Major opcode 2 by its function, bits 32..27 (R94). -/
def decodeFunc (w : IWord) : Decoded :=
  match (bits w 27 6).toNat with
  | 0 => shiftForm w (.sll (brkOf w) (bits w 18 6) (bits w 12 6) (bits w 6 6) (bits w 0 6))
      (.sllE (brkOf w) (bits w 18 6) (bits w 12 6) (bits w 6 6) (bits w 0 6))
      (.slli (brkOf w) (bits w 18 7) (bits w 12 6) (bits w 6 6) (bits w 0 6))
      (.sllEi (brkOf w) (bits w 18 7) (bits w 12 6) (bits w 6 6) (bits w 0 6))
  | 1 => shiftForm w (.srl (brkOf w) (bits w 18 6) (bits w 12 6) (bits w 6 6) (bits w 0 6))
      (.srlE (brkOf w) (bits w 18 6) (bits w 12 6) (bits w 6 6) (bits w 0 6))
      (.srli (brkOf w) (bits w 18 7) (bits w 12 6) (bits w 6 6) (bits w 0 6))
      (.srlEi (brkOf w) (bits w 18 7) (bits w 12 6) (bits w 6 6) (bits w 0 6))
  | 2 => shiftForm w (.sra (brkOf w) (bits w 18 6) (bits w 12 6) (bits w 6 6) (bits w 0 6))
      (.sraE (brkOf w) (bits w 18 6) (bits w 12 6) (bits w 6 6) (bits w 0 6))
      (.srai (brkOf w) (bits w 18 7) (bits w 12 6) (bits w 6 6) (bits w 0 6))
      (.sraEi (brkOf w) (bits w 18 7) (bits w 12 6) (bits w 6 6) (bits w 0 6))
  | 4 => ifUnusedZero (bits w 24 3) (.add (brkOf w) (bits w 18 6) (bits w 12 6) (bits w 6 6) (bits w 0 6))
  | 5 => ifUnusedZero (bits w 24 3) (.sub (brkOf w) (bits w 18 6) (bits w 12 6) (bits w 6 6) (bits w 0 6))
  | 8 => ifUnusedZero (bits w 24 3) (.and (brkOf w) (bits w 18 6) (bits w 12 6) (bits w 6 6) (bits w 0 6))
  | 9 => ifUnusedZero (bits w 24 3) (.or (brkOf w) (bits w 18 6) (bits w 12 6) (bits w 6 6) (bits w 0 6))
  | 10 => ifUnusedZero (bits w 24 3) (.xor (brkOf w) (bits w 18 6) (bits w 12 6) (bits w 6 6) (bits w 0 6))
  | 12 => decodeMul w
  | 13 => ifUnusedZero (bits w 18 9) (.jmr (brkOf w) (bits w 12 6) (bits w 6 6) (bits w 0 6))
  | 16 => ifUnusedZero (bits w 24 3) (.nand (brkOf w) (bits w 18 6) (bits w 12 6) (bits w 6 6) (bits w 0 6))
  | 17 => ifUnusedZero (bits w 24 3) (.nor (brkOf w) (bits w 18 6) (bits w 12 6) (bits w 6 6) (bits w 0 6))
  | 18 => ifUnusedZero (bits w 24 3) (.xnor (brkOf w) (bits w 18 6) (bits w 12 6) (bits w 6 6) (bits w 0 6))
  | 28 => .ok (.set (brkOf w) (Rel.ofBits (bits w 24 3)) (bits w 18 6) (bits w 12 6) (bits w 6 6) (bits w 0 6))
  | 29 => .ok (.setu (brkOf w) (Rel.ofBits (bits w 24 3)) (bits w 18 6) (bits w 12 6) (bits w 6 6) (bits w 0 6))
  | 30 => .ok (.fset (brkOf w) (bits w 24 3) (bits w 18 6) (bits w 12 6) (bits w 6 6) (bits w 0 6))
  | 32 => ifUnusedZero (bits w 24 3) (.ldbx (brkOf w) (bits w 18 6) (bits w 12 6) (bits w 6 6) (bits w 0 6))
  | 33 => ifUnusedZero (bits w 24 3) (.ldbux (brkOf w) (bits w 18 6) (bits w 12 6) (bits w 6 6) (bits w 0 6))
  | 34 => ifUnusedZero (bits w 24 3) (.ldwx (brkOf w) (bits w 18 6) (bits w 12 6) (bits w 6 6) (bits w 0 6))
  | 35 => ifUnusedZero (bits w 24 3) (.ldwux (brkOf w) (bits w 18 6) (bits w 12 6) (bits w 6 6) (bits w 0 6))
  | 36 => ifUnusedZero (bits w 24 3) (.ldtx (brkOf w) (bits w 18 6) (bits w 12 6) (bits w 6 6) (bits w 0 6))
  | 37 => ifUnusedZero (bits w 24 3) (.ldtux (brkOf w) (bits w 18 6) (bits w 12 6) (bits w 6 6) (bits w 0 6))
  | 38 => ifUnusedZero (bits w 24 3) (.ldox (brkOf w) (bits w 18 6) (bits w 12 6) (bits w 6 6) (bits w 0 6))
  | 39 => ifUnusedZero (bits w 24 3) (.ldoux (brkOf w) (bits w 18 6) (bits w 12 6) (bits w 6 6) (bits w 0 6))
  | 42 => ifUnusedZero (bits w 24 3) (.ldhx (brkOf w) (bits w 18 6) (bits w 12 6) (bits w 6 6) (bits w 0 6))
  | 43 => .ok (.ldhrx (brkOf w) (bits w 24 3) (bits w 18 6) (bits w 12 6) (bits w 6 6) (bits w 0 6))
  | 47 => .ok (.ldchk (brkOf w) (bits w 24 3) (bits w 18 6) (bits w 12 6) (bits w 6 6) (bits w 0 6))
  | 48 => ifUnusedZero (bits w 18 9) (.stbx (brkOf w) (bits w 12 6) (bits w 6 6) (bits w 0 6))
  | 49 => ifUnusedZero (bits w 18 9) (.stwx (brkOf w) (bits w 12 6) (bits w 6 6) (bits w 0 6))
  | 50 => ifUnusedZero (bits w 18 9) (.sttx (brkOf w) (bits w 12 6) (bits w 6 6) (bits w 0 6))
  | 51 => ifUnusedZero (bits w 18 9) (.stox (brkOf w) (bits w 12 6) (bits w 6 6) (bits w 0 6))
  | 53 => ifUnusedZero (bits w 18 9) (.sthx (brkOf w) (bits w 12 6) (bits w 6 6) (bits w 0 6))
  | 54 => .ok (.sthcx (brkOf w) (bits w 24 3) (bits w 18 6) (bits w 12 6) (bits w 6 6) (bits w 0 6))
  | 63 => ifUnusedZero (bits w 24 3) (.reg (brkOf w) (bits w 18 6) (bits w 12 6) (bits w 6 6) (bits w 0 6))
  | _ => .illegal

/-- A Layout A word by its major opcode, bits 38..33 (R93, R101). -/
def decode (w : IWord) : Decoded :=
  match (bits w 33 6).toNat with
  | 0 => .ok (.sys (brkOf w) (bits w 0 33))
  | 1 => .ok (.mod (brkOf w) (bits w 0 33))
  | 2 => decodeFunc w
  | 3 => .ok (.flt (brkOf w) (bits w 0 33))
  | 4 => .ok (.addi (brkOf w) (bits w 18 15) (bits w 12 6) (bits w 6 6) (bits w 0 6))
  | 5 => .ok (.subfi (brkOf w) (bits w 18 15) (bits w 12 6) (bits w 6 6) (bits w 0 6))
  | 8 => .ok (.andi (brkOf w) (bits w 18 15) (bits w 12 6) (bits w 6 6) (bits w 0 6))
  | 9 => .ok (.ori (brkOf w) (bits w 18 15) (bits w 12 6) (bits w 6 6) (bits w 0 6))
  | 10 => .ok (.xori (brkOf w) (bits w 18 15) (bits w 12 6) (bits w 6 6) (bits w 0 6))
  | 12 => .ok (.muli (brkOf w) (bits w 18 15) (bits w 12 6) (bits w 6 6) (bits w 0 6))
  | 13 => .ok (.bnz (brkOf w) (bits w 6 27) (bits w 0 6))
  | 14 => .ok (.bz (brkOf w) (bits w 6 27) (bits w 0 6))
  | 15 => .ok (.bsr (brkOf w) (bits w 6 27) (bits w 0 6))
  | 16 => .ok (.cmp (brkOf w) (Rel.ofBits (bits w 30 3)) (bits w 24 6) (bits w 18 6) (bits w 12 6) (bits w 6 6) (bits w 0 6))
  | 17 => .ok (.cmpu (brkOf w) (Rel.ofBits (bits w 30 3)) (bits w 24 6) (bits w 18 6) (bits w 12 6) (bits w 6 6) (bits w 0 6))
  | 18 => .ok (.fcmp (brkOf w) (bits w 30 3) (bits w 24 6) (bits w 18 6) (bits w 12 6) (bits w 6 6) (bits w 0 6))
  | 19 => .ok (.cmp19 (brkOf w) (bits w 30 3) (bits w 24 6) (bits w 18 6) (bits w 12 6) (bits w 6 6) (bits w 0 6))
  | 20 => .ok (.cmpi (brkOf w) (Rel.ofBits (bits w 30 3)) (bits w 24 6) (bits w 18 6) (bits w 12 6) (bits w 6 6) (bits w 0 6))
  | 21 => .ok (.cmpui (brkOf w) (Rel.ofBits (bits w 30 3)) (bits w 24 6) (bits w 18 6) (bits w 12 6) (bits w 6 6) (bits w 0 6))
  | 22 => .ok (.fcmpi (brkOf w) (bits w 30 3) (bits w 24 6) (bits w 18 6) (bits w 12 6) (bits w 6 6) (bits w 0 6))
  | 23 => .ok (.cmpi23 (brkOf w) (bits w 30 3) (bits w 24 6) (bits w 18 6) (bits w 12 6) (bits w 6 6) (bits w 0 6))
  | 24 => .ok (.fdp (brkOf w) (bits w 0 33))
  | 25 => .ok (.ffdp (brkOf w) (bits w 0 33))
  | 28 => .ok (.seti (brkOf w) (Rel.ofBits (bits w 30 3)) (bits w 18 12) (bits w 12 6) (bits w 6 6) (bits w 0 6))
  | 29 => .ok (.setui (brkOf w) (Rel.ofBits (bits w 30 3)) (bits w 18 12) (bits w 12 6) (bits w 6 6) (bits w 0 6))
  | 30 => .ok (.fseti (brkOf w) (bits w 30 3) (bits w 18 12) (bits w 12 6) (bits w 6 6) (bits w 0 6))
  | 32 => .ok (.ldb (brkOf w) (bits w 18 15) (bits w 12 6) (bits w 6 6) (bits w 0 6))
  | 33 => .ok (.ldbu (brkOf w) (bits w 18 15) (bits w 12 6) (bits w 6 6) (bits w 0 6))
  | 34 => .ok (.ldw (brkOf w) (bits w 18 15) (bits w 12 6) (bits w 6 6) (bits w 0 6))
  | 35 => .ok (.ldwu (brkOf w) (bits w 18 15) (bits w 12 6) (bits w 6 6) (bits w 0 6))
  | 36 => .ok (.ldt (brkOf w) (bits w 18 15) (bits w 12 6) (bits w 6 6) (bits w 0 6))
  | 37 => .ok (.ldtu (brkOf w) (bits w 18 15) (bits w 12 6) (bits w 6 6) (bits w 0 6))
  | 38 => .ok (.ldo (brkOf w) (bits w 18 15) (bits w 12 6) (bits w 6 6) (bits w 0 6))
  | 39 => .ok (.ldou (brkOf w) (bits w 18 15) (bits w 12 6) (bits w 6 6) (bits w 0 6))
  | 42 => .ok (.ldh (brkOf w) (bits w 18 15) (bits w 12 6) (bits w 6 6) (bits w 0 6))
  | 43 => .ok (.ldhr (brkOf w) (bits w 18 15) (bits w 12 6) (bits w 6 6) (bits w 0 6))
  | 48 => .ok (.stb (brkOf w) (bits w 18 15) (bits w 12 6) (bits w 6 6) (bits w 0 6))
  | 49 => .ok (.stw (brkOf w) (bits w 18 15) (bits w 12 6) (bits w 6 6) (bits w 0 6))
  | 50 => .ok (.stt (brkOf w) (bits w 18 15) (bits w 12 6) (bits w 6 6) (bits w 0 6))
  | 51 => .ok (.sto (brkOf w) (bits w 18 15) (bits w 12 6) (bits w 6 6) (bits w 0 6))
  | 53 => .ok (.sth (brkOf w) (bits w 18 15) (bits w 12 6) (bits w 6 6) (bits w 0 6))
  | 54 => .ok (.sthc (brkOf w) (bits w 18 15) (bits w 12 6) (bits w 6 6) (bits w 0 6))
  | 59 => .ok (.con4 (brkOf w) (bits w 6 27) (bits w 0 6))
  | 60 => .ok (.nop (brkOf w) (bits w 0 33))
  | 61 => .ok (.con1 (brkOf w) (bits w 6 27) (bits w 0 6))
  | 62 => .ok (.con2 (brkOf w) (bits w 6 27) (bits w 0 6))
  | 63 => .ok (.con3 (brkOf w) (bits w 6 27) (bits w 0 6))
  | _ => .illegal

/-- The Layout C words, CSR (bits 39..35 = 2, 34..30 = 15) and CARRY (2, 30, and 7 in bits 29..27) (R103, R190, R251). -/
def decodeLayoutC (w : IWord) : Option Instr :=
  if bits w 30 10 = 0b0001001111#10 then
    some (.csr (bits w 28 2) (bits w 26 2) (bits w 16 10) (bits w 11 5) (bits w 6 5) (bits w 0 6))
  else if bits w 27 13 = 0b0001011110111#13 then
    some (.carry (bits w 25 2) (bits w 23 2) (bits w 21 2) (bits w 19 2) (bits w 17 2) (bits w 15 2) (bits w 13 2)
      (bits w 11 2) (bits w 6 5) (bits w 0 6))
  else none

/-- Layout A, and before it the two Layout C words in a model that decodes them (R193, R252, R291; log 18). -/
def decodeWith (layoutC : Bool) (w : IWord) : Decoded :=
  if layoutC then
    match decodeLayoutC w with
    | some i => .ok i
    | none => decode w
  else decode w

/-- The five bytes at pc .. pc+4, lowest address first, put together (R66). -/
def wordOfBytes (b0 b1 b2 b3 b4 : Byte) : IWord := b4 ++ b3 ++ b2 ++ b1 ++ b0

/-- The five bytes of a word, lowest address first (R66). -/
def bytesOfWord (w : IWord) : List Byte :=
  [bits w 0 8, bits w 8 8, bits w 16 8, bits w 24 8, bits w 32 8]

/-- The decoder over bytes: what the first five spell, and the bytes after them (R66, R80). -/
def decodeBytes : List Byte → Decoded × List Byte
  | b0 :: b1 :: b2 :: b3 :: b4 :: rest => (decode (wordOfBytes b0 b1 b2 b3 b4), rest)
  | short => (.truncated, short)

/-- The instruction the decoder reads from the word numbered as spec/opcode_table.json numbers its bits; every bit from
`nbits` on is 0. -/
def decodeTableWord (nbits w : Nat) : Option Instr :=
  match (decodeBytes (bytesOfWord (BitVec.ofNat 40 (w % 2 ^ nbits)))).1 with
  | .ok i => some i
  | .illegal => none
  | .unusedBits => none
  | .truncated => none

/-- Bit 39 of the instruction's word, B (R82); a Layout C word has no B bit, and its bit 39 is 0 (R103). -/
def Instr.brk : Instr → Bool
  | .sys brk _ => brk
  | .mod brk _ => brk
  | .flt brk _ => brk
  | .addi brk _ _ _ _ => brk
  | .subfi brk _ _ _ _ => brk
  | .andi brk _ _ _ _ => brk
  | .ori brk _ _ _ _ => brk
  | .xori brk _ _ _ _ => brk
  | .muli brk _ _ _ _ => brk
  | .bnz brk _ _ => brk
  | .bz brk _ _ => brk
  | .bra brk _ => brk
  | .bsr brk _ _ => brk
  | .cmp brk _ _ _ _ _ _ => brk
  | .cmpu brk _ _ _ _ _ _ => brk
  | .fcmp brk _ _ _ _ _ _ => brk
  | .cmp19 brk _ _ _ _ _ _ => brk
  | .cmpi brk _ _ _ _ _ _ => brk
  | .cmpui brk _ _ _ _ _ _ => brk
  | .fcmpi brk _ _ _ _ _ _ => brk
  | .cmpi23 brk _ _ _ _ _ _ => brk
  | .fdp brk _ => brk
  | .ffdp brk _ => brk
  | .seti brk _ _ _ _ _ => brk
  | .setui brk _ _ _ _ _ => brk
  | .fseti brk _ _ _ _ _ => brk
  | .ldb brk _ _ _ _ => brk
  | .ldbu brk _ _ _ _ => brk
  | .ldw brk _ _ _ _ => brk
  | .ldwu brk _ _ _ _ => brk
  | .ldt brk _ _ _ _ => brk
  | .ldtu brk _ _ _ _ => brk
  | .ldo brk _ _ _ _ => brk
  | .ldou brk _ _ _ _ => brk
  | .ldh brk _ _ _ _ => brk
  | .ldhr brk _ _ _ _ => brk
  | .stb brk _ _ _ _ => brk
  | .stw brk _ _ _ _ => brk
  | .stt brk _ _ _ _ => brk
  | .sto brk _ _ _ _ => brk
  | .sth brk _ _ _ _ => brk
  | .sthc brk _ _ _ _ => brk
  | .con4 brk _ _ => brk
  | .nop brk _ => brk
  | .con1 brk _ _ => brk
  | .con2 brk _ _ => brk
  | .con3 brk _ _ => brk
  | .sll brk _ _ _ _ => brk
  | .slli brk _ _ _ _ => brk
  | .sllE brk _ _ _ _ => brk
  | .sllEi brk _ _ _ _ => brk
  | .srl brk _ _ _ _ => brk
  | .srli brk _ _ _ _ => brk
  | .srlE brk _ _ _ _ => brk
  | .srlEi brk _ _ _ _ => brk
  | .sra brk _ _ _ _ => brk
  | .srai brk _ _ _ _ => brk
  | .sraE brk _ _ _ _ => brk
  | .sraEi brk _ _ _ _ => brk
  | .add brk _ _ _ _ => brk
  | .sub brk _ _ _ _ => brk
  | .and brk _ _ _ _ => brk
  | .or brk _ _ _ _ => brk
  | .xor brk _ _ _ _ => brk
  | .mulS brk _ _ _ _ => brk
  | .mulU brk _ _ _ _ => brk
  | .mulSu brk _ _ _ _ => brk
  | .mulOp4 brk _ _ _ _ => brk
  | .mulOp5 brk _ _ _ _ => brk
  | .mulOp6 brk _ _ _ _ => brk
  | .mulOp7 brk _ _ _ _ => brk
  | .jmr brk _ _ _ => brk
  | .nand brk _ _ _ _ => brk
  | .nor brk _ _ _ _ => brk
  | .xnor brk _ _ _ _ => brk
  | .set brk _ _ _ _ _ => brk
  | .setu brk _ _ _ _ _ => brk
  | .fset brk _ _ _ _ _ => brk
  | .ldbx brk _ _ _ _ => brk
  | .ldbux brk _ _ _ _ => brk
  | .ldwx brk _ _ _ _ => brk
  | .ldwux brk _ _ _ _ => brk
  | .ldtx brk _ _ _ _ => brk
  | .ldtux brk _ _ _ _ => brk
  | .ldox brk _ _ _ _ => brk
  | .ldoux brk _ _ _ _ => brk
  | .ldhx brk _ _ _ _ => brk
  | .ldhrx brk _ _ _ _ _ => brk
  | .ldchk brk _ _ _ _ _ => brk
  | .stbx brk _ _ _ => brk
  | .stwx brk _ _ _ => brk
  | .sttx brk _ _ _ => brk
  | .stox brk _ _ _ => brk
  | .sthx brk _ _ _ => brk
  | .sthcx brk _ _ _ _ _ => brk
  | .reg brk _ _ _ _ => brk
  | .csr _ _ _ _ _ _ => false
  | .carry _ _ _ _ _ _ _ _ _ _ => false

/-! ## The encoder, from the same formats -/

/-- A word with an unexplained or ignored payload in bits 32..0. -/
def packRest (brk : Bool) (op : BitVec 6) (rest : BitVec 33) : IWord :=
  BitVec.ofBool brk ++ op ++ rest

/-- Format A-RI (R84). -/
def packRI (brk : Bool) (op : BitVec 6) (imm : BitVec 15) (ra rt : RegNum) (pr : PredNum) : IWord :=
  BitVec.ofBool brk ++ op ++ imm ++ ra ++ rt ++ pr

/-- Format A-SETI (R85). -/
def packSetI (brk : Bool) (op : BitVec 6) (op3 : BitVec 3) (imm : BitVec 12) (ra rt : RegNum) (pr : PredNum) : IWord :=
  BitVec.ofBool brk ++ op ++ op3 ++ imm ++ ra ++ rt ++ pr

/-- Formats A-CMP and A-CMPI; `b` is Rb or the 6-bit immediate (R86, R87). -/
def packCmp (brk : Bool) (op : BitVec 6) (op3 : BitVec 3) (pt2 pt1 : PredNum) (b : BitVec 6) (ra : RegNum)
    (pr : PredNum) : IWord :=
  BitVec.ofBool brk ++ op ++ op3 ++ pt2 ++ pt1 ++ b ++ ra ++ pr

/-- Formats A-BR and A-CON (R88, R89). -/
def packBr (brk : Bool) (op : BitVec 6) (disp : BitVec 27) (pr : PredNum) : IWord :=
  BitVec.ofBool brk ++ op ++ disp ++ pr

/-- Format A-R2; `op3` is the field of bits 26..24 (R83). -/
def packR2 (brk : Bool) (fn : BitVec 6) (op3 : BitVec 3) (rb ra rt : RegNum) (pr : PredNum) : IWord :=
  BitVec.ofBool brk ++ 2#6 ++ fn ++ op3 ++ rb ++ ra ++ rt ++ pr

/-- The immediate form of a shift: bit 26 is 1, bit 25 is e, Immed7 is bits 24..18 (R90). -/
def packShiftI (brk : Bool) (fn : BitVec 6) (e : Bool) (imm : BitVec 7) (ra rt : RegNum) (pr : PredNum) : IWord :=
  BitVec.ofBool brk ++ 2#6 ++ fn ++ 1#1 ++ BitVec.ofBool e ++ imm ++ ra ++ rt ++ pr

/-- The word of an instruction. BRA's is the word of BZ P0 (R105); those of CSR and CARRY are Layout C words (R103). -/
def encode : Instr → IWord
  | .sys brk rest => packRest brk 0 rest
  | .mod brk rest => packRest brk 1 rest
  | .flt brk rest => packRest brk 3 rest
  | .addi brk imm ra rt pr => packRI brk 4 imm ra rt pr
  | .subfi brk imm ra rt pr => packRI brk 5 imm ra rt pr
  | .andi brk imm ra rt pr => packRI brk 8 imm ra rt pr
  | .ori brk imm ra rt pr => packRI brk 9 imm ra rt pr
  | .xori brk imm ra rt pr => packRI brk 10 imm ra rt pr
  | .muli brk imm ra rt pr => packRI brk 12 imm ra rt pr
  | .bnz brk disp pr => packBr brk 13 disp pr
  | .bz brk disp pr => packBr brk 14 disp pr
  | .bra brk disp => packBr brk 14 disp 0
  | .bsr brk disp pr => packBr brk 15 disp pr
  | .cmp brk rel pt2 pt1 rb ra pr => packCmp brk 16 rel.toBits pt2 pt1 rb ra pr
  | .cmpu brk rel pt2 pt1 rb ra pr => packCmp brk 17 rel.toBits pt2 pt1 rb ra pr
  | .fcmp brk op3 pt2 pt1 rb ra pr => packCmp brk 18 op3 pt2 pt1 rb ra pr
  | .cmp19 brk op3 pt2 pt1 rb ra pr => packCmp brk 19 op3 pt2 pt1 rb ra pr
  | .cmpi brk rel pt2 pt1 imm ra pr => packCmp brk 20 rel.toBits pt2 pt1 imm ra pr
  | .cmpui brk rel pt2 pt1 imm ra pr => packCmp brk 21 rel.toBits pt2 pt1 imm ra pr
  | .fcmpi brk op3 pt2 pt1 imm ra pr => packCmp brk 22 op3 pt2 pt1 imm ra pr
  | .cmpi23 brk op3 pt2 pt1 imm ra pr => packCmp brk 23 op3 pt2 pt1 imm ra pr
  | .fdp brk rest => packRest brk 24 rest
  | .ffdp brk rest => packRest brk 25 rest
  | .seti brk rel imm ra rt pr => packSetI brk 28 rel.toBits imm ra rt pr
  | .setui brk rel imm ra rt pr => packSetI brk 29 rel.toBits imm ra rt pr
  | .fseti brk op3 imm ra rt pr => packSetI brk 30 op3 imm ra rt pr
  | .ldb brk imm ra rt pr => packRI brk 32 imm ra rt pr
  | .ldbu brk imm ra rt pr => packRI brk 33 imm ra rt pr
  | .ldw brk imm ra rt pr => packRI brk 34 imm ra rt pr
  | .ldwu brk imm ra rt pr => packRI brk 35 imm ra rt pr
  | .ldt brk imm ra rt pr => packRI brk 36 imm ra rt pr
  | .ldtu brk imm ra rt pr => packRI brk 37 imm ra rt pr
  | .ldo brk imm ra rt pr => packRI brk 38 imm ra rt pr
  | .ldou brk imm ra rt pr => packRI brk 39 imm ra rt pr
  | .ldh brk imm ra rt pr => packRI brk 42 imm ra rt pr
  | .ldhr brk imm ra rt pr => packRI brk 43 imm ra rt pr
  | .stb brk imm ra rs pr => packRI brk 48 imm ra rs pr
  | .stw brk imm ra rs pr => packRI brk 49 imm ra rs pr
  | .stt brk imm ra rs pr => packRI brk 50 imm ra rs pr
  | .sto brk imm ra rs pr => packRI brk 51 imm ra rs pr
  | .sth brk imm ra rs pr => packRI brk 53 imm ra rs pr
  | .sthc brk imm ra rs pr => packRI brk 54 imm ra rs pr
  | .con4 brk imm pr => packBr brk 59 imm pr
  | .nop brk ignored => packRest brk 60 ignored
  | .con1 brk imm pr => packBr brk 61 imm pr
  | .con2 brk imm pr => packBr brk 62 imm pr
  | .con3 brk imm pr => packBr brk 63 imm pr
  | .sll brk rb ra rt pr => packR2 brk 0 0 rb ra rt pr
  | .slli brk imm ra rt pr => packShiftI brk 0 false imm ra rt pr
  | .sllE brk rb ra rt pr => packR2 brk 0 2 rb ra rt pr
  | .sllEi brk imm ra rt pr => packShiftI brk 0 true imm ra rt pr
  | .srl brk rb ra rt pr => packR2 brk 1 0 rb ra rt pr
  | .srli brk imm ra rt pr => packShiftI brk 1 false imm ra rt pr
  | .srlE brk rb ra rt pr => packR2 brk 1 2 rb ra rt pr
  | .srlEi brk imm ra rt pr => packShiftI brk 1 true imm ra rt pr
  | .sra brk rb ra rt pr => packR2 brk 2 0 rb ra rt pr
  | .srai brk imm ra rt pr => packShiftI brk 2 false imm ra rt pr
  | .sraE brk rb ra rt pr => packR2 brk 2 2 rb ra rt pr
  | .sraEi brk imm ra rt pr => packShiftI brk 2 true imm ra rt pr
  | .add brk rb ra rt pr => packR2 brk 4 0 rb ra rt pr
  | .sub brk rb ra rt pr => packR2 brk 5 0 rb ra rt pr
  | .and brk rb ra rt pr => packR2 brk 8 0 rb ra rt pr
  | .or brk rb ra rt pr => packR2 brk 9 0 rb ra rt pr
  | .xor brk rb ra rt pr => packR2 brk 10 0 rb ra rt pr
  | .mulS brk rb ra rt pr => packR2 brk 12 0 rb ra rt pr
  | .mulU brk rb ra rt pr => packR2 brk 12 1 rb ra rt pr
  | .mulSu brk rb ra rt pr => packR2 brk 12 2 rb ra rt pr
  | .mulOp4 brk rb ra rt pr => packR2 brk 12 4 rb ra rt pr
  | .mulOp5 brk rb ra rt pr => packR2 brk 12 5 rb ra rt pr
  | .mulOp6 brk rb ra rt pr => packR2 brk 12 6 rb ra rt pr
  | .mulOp7 brk rb ra rt pr => packR2 brk 12 7 rb ra rt pr
  | .jmr brk ra rt pr => packR2 brk 13 0 0 ra rt pr
  | .nand brk rb ra rt pr => packR2 brk 16 0 rb ra rt pr
  | .nor brk rb ra rt pr => packR2 brk 17 0 rb ra rt pr
  | .xnor brk rb ra rt pr => packR2 brk 18 0 rb ra rt pr
  | .set brk rel rb ra rt pr => packR2 brk 28 rel.toBits rb ra rt pr
  | .setu brk rel rb ra rt pr => packR2 brk 29 rel.toBits rb ra rt pr
  | .fset brk op3 rb ra rt pr => packR2 brk 30 op3 rb ra rt pr
  | .ldbx brk rb ra rt pr => packR2 brk 32 0 rb ra rt pr
  | .ldbux brk rb ra rt pr => packR2 brk 33 0 rb ra rt pr
  | .ldwx brk rb ra rt pr => packR2 brk 34 0 rb ra rt pr
  | .ldwux brk rb ra rt pr => packR2 brk 35 0 rb ra rt pr
  | .ldtx brk rb ra rt pr => packR2 brk 36 0 rb ra rt pr
  | .ldtux brk rb ra rt pr => packR2 brk 37 0 rb ra rt pr
  | .ldox brk rb ra rt pr => packR2 brk 38 0 rb ra rt pr
  | .ldoux brk rb ra rt pr => packR2 brk 39 0 rb ra rt pr
  | .ldhx brk rb ra rt pr => packR2 brk 42 0 rb ra rt pr
  | .ldhrx brk op3 rb ra rt pr => packR2 brk 43 op3 rb ra rt pr
  | .ldchk brk op3 rb ra rt pr => packR2 brk 47 op3 rb ra rt pr
  | .stbx brk ra rs pr => packR2 brk 48 0 0 ra rs pr
  | .stwx brk ra rs pr => packR2 brk 49 0 0 ra rs pr
  | .sttx brk ra rs pr => packR2 brk 50 0 0 ra rs pr
  | .stox brk ra rs pr => packR2 brk 51 0 0 ra rs pr
  | .sthx brk ra rs pr => packR2 brk 53 0 0 ra rs pr
  | .sthcx brk op3 rb ra rs pr => packR2 brk 54 op3 rb ra rs pr
  | .reg brk rb ra rt pr => packR2 brk 63 0 rb ra rt pr
  | .csr op2 m2 csr ra rt pr => 2#5 ++ 15#5 ++ op2 ++ m2 ++ csr ++ ra ++ rt ++ pr
  | .carry io7 io6 io5 io4 io3 io2 io1 io0 rt pr => 2#5 ++ 30#5 ++ 7#3 ++ io7 ++ io6 ++ io5 ++ io4 ++ io3 ++ io2 ++ io1 ++ io0 ++ rt ++ pr

/-- The guard field, bits 5..0 of the instruction's word (R82). -/
def Instr.guardField (i : Instr) : PredNum := bits (encode i) 0 6

end Sys2Proof
end

