-- ==== Sys2Proof/Machine/State.lean ====
section
/-! DEFINITION. The state of the core and its launch as plain data, the reasons a step can stop, and the state after reset. -/

namespace Sys2Proof.Machine

/-- The pending REG: the register numbers of its Ra, Rb, Rt fields and its predicate (R34, R257; log 10). -/
structure PendReg where
  ra : RegNum
  rb : RegNum
  rt : RegNum
  pr : PredNum
deriving DecidableEq, Repr

/-- The pending constant prefixes: which CON supplied which 27 bits, in program order, and their predicate (R34, R253). -/
structure PendCon where
  chunks : List (ConNum × BitVec 27)
  pr : PredNum
deriving DecidableEq, Repr

/-- The pending CARRY: its IO codes, entry k for IO_k, its Rt number, and how many following instructions remain (R34, R251). -/
structure PendCarry where
  io : Vector (BitVec 2) 8
  rt : BitVec 5
  remaining : Nat
deriving DecidableEq, Repr

/-- Memory: the bytes that do not read as `Config.unlistedByte`, by strictly rising address (`Memory.wf`; R33, R50). -/
abbrev Memory := List Host.Cell

/-- A run of populated addresses (R51). -/
structure Region where
  base : Nat
  size : Nat
deriving DecidableEq, Repr

/-- What a launch fixes for the whole run (R322) and the open parameters (R5); no instruction writes it. -/
structure Launch where
  /-- MemValid, the populated addresses (R51). -/
  memValid : List Region
  /-- The addresses from which the launch placed an instruction (R64, R66). -/
  text : List Addr
  /-- HALT_IP, if the launch names one (R324). -/
  haltIp : Option Addr
  misaligned : Misaligned
  breakPolarity : BreakPolarity
  cmpPt2 : CmpPt2
  bcbs : BcBs
  branchTest : BranchTest
  conA : ConPolicy
  /-- The model decodes the two Layout C words (R193, R252, R291). -/
  layoutC : Bool
deriving DecidableEq, Repr

/-- One memory access of the current issue group (R326 (d)). -/
structure Access where
  addr : Addr
  size : Nat
  store : Bool
deriving DecidableEq, Repr

/-- The core (10_state.md) with its launch. -/
structure State where
  /-- R0 to R63; entry 0 is never read or written (R20, R21). -/
  regs : Vector Word 64
  /-- P0 to P63; entries 0 and 1 are never read or written (R24, R25). -/
  preds : Vector Bool 64
  /-- The instruction pointer (R27). -/
  pc : Addr
  mem : Memory
  pendCon : Option PendCon
  pendReg : Option PendReg
  pendCarry : Option PendCarry
  /-- The model's own: the accesses of the current group so far (R326 (d); log 15). -/
  groupAccesses : List Access
  launch : Launch
deriving DecidableEq, Repr

/-- The model faults (R291). UninitialisedRead is not among them: every register holds a value (log 1). -/
inductive Fault where
  /-- The step raises it on a word that spells no instruction (R96). Safe: nothing is claimed of what follows. -/
  | illegalInstruction (pc : Addr) (word : IWord)
deriving DecidableEq, Repr

/-- The refusals (R291): the spec gives the step no meaning, and the model does not go past it. Each is safe. -/
inductive Refusal where
  /-- `exec` would raise it for an instruction without a meaning; no arm does. Safe. -/
  | notModelled (mnemonic : String)
  /-- A named-only instruction raises it (R97, R281). Safe. -/
  | namedOnly (mnemonic : String)
  /-- A CON prefix raises it when CON_A refuses (R255). Safe. -/
  | constantPrefix (pc : Addr)
  /-- CARRY raises it (R252). Safe. -/
  | carryModifier (pc : Addr)
  /-- CSR raises it for every register number (R193). Safe. -/
  | undefinedCSR (pc : Addr) (number : BitVec 10)
  /-- The step raises it on a word with an unused bit set (R98). Safe. -/
  | unusedBitsSet (pc : Addr) (word : IWord)
  /-- A compare or set with relation 6 or 7 raises it when BCBS refuses (R182). Safe. -/
  | undefinedRelation (pc : Addr)
  /-- A compare whose two targets are one predicate above P1 raises it (R171). Safe. -/
  | samePredicateTargets (pc : Addr)
  /-- SRL and SRA with e = 1 raise it (R155). Safe. -/
  | extendedRightShift (pc : Addr)
  /-- The step raises it at a prefix that no user follows (R250) and on a jump onto the instruction after a prefix (R202);
  an instruction raises it on a pending prefix that does not fit it (R250). Safe. -/
  | danglingPrefix (pc : Addr)
  /-- An instruction that needs a REG before it raises it when there is none (R146, R150, R240). Safe. -/
  | missingRegPrefix (pc : Addr)
  /-- The step raises it on an issue group that breaks a condition of R326. Safe. -/
  | groupHazard (pc : Addr)
  /-- A load or store raises it when MISALIGNED refuses (R54). Safe. -/
  | misaligned (pc : Addr) (addr : Addr) (size : Nat)
  /-- A load, store or fetch raises it at an unpopulated address, and a fetch where the launch placed no instruction
  (R51, R66). Safe. -/
  | outsideMemory (pc : Addr) (addr : Addr)
  /-- A store raises it when it overlaps an instruction of the launch (R64). Safe. -/
  | storeToText (pc : Addr) (addr : Addr)
deriving DecidableEq, Repr

/-- What executing one instruction, or one step, answers (R291). -/
abbrev Result := Host.Outcome State Fault Refusal

/-- The launch at reset: no program, every address populated, no HALT_IP, every parameter at the spec's default
(log 5, 6, 7, 8, 9, 18). -/
def Launch.reset : Launch where
  memValid := [⟨0, 2 ^ 128⟩]
  text := []
  haltIp := none
  misaligned := .refuse
  breakPolarity := .after
  cmpPt2 := .complement
  bcbs := .refuse
  branchTest := .predicate
  conA := .refuse
  layoutC := false

/-- The machine right after reset (R37, R320): R0 = 0, P0 = 0, P1 = 1, no pending prefix; the other values are the
model's choice (log 1 to 7). -/
def State.reset : State where
  regs := (Vector.replicate 64 Config.resetReg).set 0 0
  preds := ((Vector.replicate 64 Config.resetPred).set 0 false).set 1 true
  pc := Config.resetIp
  mem := []
  pendCon := none
  pendReg := none
  pendCarry := none
  groupAccesses := []
  launch := Launch.reset

end Sys2Proof.Machine
end

