-- ==== Sys2Proof/Machine/Ops.lean ====
section
/-! DEFINITION. The named operations over registers, predicates, memory and the instruction pointer. The architecture
takes no exception and returns from none (R290, R295, R297), so there is no exception entry among them. -/

namespace Sys2Proof.Machine

/-! ## Registers and predicates -/

/-- `x[r]`; R0 reads as zero (R7, R21). -/
def State.reg (s : State) (r : RegNum) : Word :=
  if r = 0 then 0 else s.regs[r.toNat]

/-- `x[r] <- v`; a write to R0 is discarded (R7, R21). -/
def State.setReg (s : State) (r : RegNum) (v : Word) : State :=
  if r = 0 then s else { s with regs := s.regs.set r.toNat v }

/-- `P[p]`; P0 is false and P1 is true (R7, R25). -/
def State.pred (s : State) (p : PredNum) : Bool :=
  if p = 0 then false else if p = 1 then true else s.preds[p.toNat]

/-- `P[p] <- b`; a write to P0 or P1 is discarded (R7, R25). -/
def State.setPred (s : State) (p : PredNum) (b : Bool) : State :=
  if p = 0 ∨ p = 1 then s else { s with preds := s.preds.set p.toNat b }

/-! ## The instruction pointer and the end of an instruction -/

/-- `next`, the address of the following instruction (R7, R28). -/
def State.next (s : State) : Addr := s.pc + Config.ipStride

/-- The instruction is done and the next one is fetched from `t`; the prefixes it consumed are gone (R34, R250). -/
def State.retireTo (s : State) (t : Addr) : State :=
  { s with pc := t, pendCon := none, pendReg := none }

/-- The instruction is done and did not assign the pc (R8, R28). -/
def State.retire (s : State) : State := s.retireTo s.next

/-- Steps 5 and 6 of R294 and R8: a pairing that is refused stops; a false predicate `pr` ends the instruction with no
effect; otherwise `body` is what it does. -/
def issue (pairing : Option Refusal) (pr : PredNum) (s : State) (body : Result) : Result :=
  match pairing with
  | some r => .refused r
  | none => if s.pred pr then body else .next s.retire

/-! ## Bytes of memory -/

/-- The byte at address `a`. -/
def memByte : Memory → Nat → Byte
  | [], _ => Config.unlistedByte
  | (k, b) :: m, a => if k = a then b else memByte m a

/-- Memory with `b` at address `a`, in the one canonical form. -/
def memSet : Memory → Nat → Byte → Memory
  | [], a, b => if b = Config.unlistedByte then [] else [(a, b)]
  | (k, v) :: m, a, b =>
    if a < k then
      if b = Config.unlistedByte then (k, v) :: m else (a, b) :: (k, v) :: m
    else if a = k then
      if b = Config.unlistedByte then m else (a, b) :: m
    else (k, v) :: memSet m a b

/-- The canonical form: addresses strictly rising and below 2^128, no entry equal to what an unlisted address reads as. -/
abbrev Memory.wf (m : Memory) : Prop :=
  m.Pairwise (fun x y => x.1 < y.1) ∧ ∀ c ∈ m, c.1 < 2 ^ 128 ∧ c.2 ≠ Config.unlistedByte

/-- The byte that the machine holds at address `a`. -/
def State.byte (s : State) (a : Addr) : Byte := memByte s.mem a.toNat

/-- The addresses of an access of `n` bytes at `a`, modulo 2^128 (R55). -/
def byteAddrs (a : Addr) (n : Nat) : List Addr :=
  (List.range n).map fun i => a + BitVec.ofNat 128 i

/-- The `n` bytes from `a` on, the first the least significant, above them zeros (R53, R55). -/
def loadBytes (m : Memory) (a : Addr) : Nat → Word
  | 0 => 0
  | n + 1 => loadBytes m (a + 1) n <<< 8 ||| (memByte m a.toNat).setWidth 128

/-- Memory with the low `n` bytes of `v` stored from `a` on, the least significant first (R53, R56). -/
def storeBytes (m : Memory) (a : Addr) (v : Word) : Nat → Memory
  | 0 => m
  | n + 1 => storeBytes (memSet m a.toNat (v.setWidth 8)) (a + 1) (v >>> 8) n

/-! ## Admission of an access, and the access -/

/-- The address is in MemValid (R51). -/
def Launch.populated (l : Launch) (a : Addr) : Bool :=
  l.memValid.any fun r => decide (r.base ≤ a.toNat) && decide (a.toNat < r.base + r.size)

/-- The byte at `a` belongs to an instruction that the launch placed (R64, R66). -/
def Launch.inText (l : Launch) (a : Addr) : Bool :=
  l.text.any fun t => decide ((a - t).toNat < 5)

/-- The checks of R55 in the order of R294, step 8: alignment, then population. DESIGN CHOICE (log 29): OutsideMemory
reports the first unpopulated byte, Misaligned the address of the access. -/
def State.admitRead (s : State) (a : Addr) (n : Nat) : Option Refusal :=
  if s.launch.misaligned = .refuse ∧ a.toNat % n ≠ 0 then some (.misaligned s.pc a n)
  else
    match (byteAddrs a n).find? fun b => !s.launch.populated b with
    | some b => some (.outsideMemory s.pc b)
    | none => none

/-- The checks of R56 and R64 in the order of R294, step 8: those of a read, then the program text. DESIGN CHOICE
(log 29): StoreToText reports the first byte that belongs to an instruction. -/
def State.admitWrite (s : State) (a : Addr) (n : Nat) : Option Refusal :=
  match s.admitRead a n with
  | some r => some r
  | none =>
    match (byteAddrs a n).find? fun b => s.launch.inText b with
    | some b => some (.storeToText s.pc b)
    | none => none

/-- MemRead (R55), the 8n-bit value with zeros above it. -/
def State.memRead (s : State) (a : Addr) (n : Nat) : Except Refusal Word :=
  match s.admitRead a n with
  | some r => .error r
  | none => .ok (loadBytes s.mem a n)

/-- MemWrite (R56). -/
def State.memWrite (s : State) (a : Addr) (n : Nat) (v : Word) : Except Refusal State :=
  match s.admitWrite a n with
  | some r => .error r
  | none => .ok { s with mem := storeBytes s.mem a v n }

end Sys2Proof.Machine
end

