-- ==== Sys2Proof/Machine/Operands.lean ====
section
/-! DEFINITION. Operand forms: immediates with and without constant prefixes, effective addresses, extension of loaded
values, and which prefix an instruction may, must or must not have before it (R250 to R258). -/

namespace Sys2Proof.Machine

/-! ## Constants and addresses -/

/-- The constant of an instruction whose immediate field is `v`: sign-extended to the machine width (R92); after CON
prefixes that CON_A admits, `v` supplies the low bits and the bits above it are free (R253, R255; log 9). -/
def State.constant (s : State) {n : Nat} (v : BitVec n) : Word :=
  match s.pendCon with
  | none => v.signExtend 128
  | some p => Config.conUpper p.chunks n v.toNat <<< n ||| v.setWidth 128

/-- The addressing modes (R210, R240). -/
inductive AddrMode where
  /-- `imm[Ra]`. -/
  | immediate (imm : BitVec 15) (ra : RegNum)
  /-- `[Ra+Rb]`. -/
  | indexed (rb ra : RegNum)
  /-- `[Ra+c]`, c the first operand of the pending REG; with no REG the instruction is refused before this is used. -/
  | indexedByReg (ra : RegNum)
deriving DecidableEq, Repr

/-- The third operand c = x[Ra'] of the pending REG (R257; log 10). -/
def State.regC (s : State) : Word :=
  match s.pendReg with
  | some p => s.reg p.ra
  | none => 0

/-- The fourth operand d = x[Rb'] of the pending REG (R257; log 10). -/
def State.regD (s : State) : Word :=
  match s.pendReg with
  | some p => s.reg p.rb
  | none => 0

/-- The write of the second target x[Rt'] of the pending REG, if there is one (R145, R257). -/
def State.setRegT (s : State) (v : Word) : State :=
  match s.pendReg with
  | some p => s.setReg p.rt v
  | none => s

/-- The effective address (R210, R240), modulo 2^128. -/
def AddrMode.address (m : AddrMode) (s : State) : Addr :=
  match m with
  | .immediate imm ra => s.reg ra + s.constant imm
  | .indexed rb ra => s.reg ra + s.reg rb
  | .indexedByReg ra => s.reg ra + s.regC

/-- How a loaded value is extended to the machine width (R57). -/
inductive Ext where
  | sign | zero
deriving DecidableEq, Repr

/-- The low `n` bytes of `v` extended to the machine width (R57). -/
def Ext.extend (e : Ext) (n : Nat) (v : Word) : Word :=
  match e with
  | .sign => (v.setWidth (8 * n)).signExtend 128
  | .zero => (v.setWidth (8 * n)).setWidth 128

/-- The shift count: the low seven bits of the operand (R148; D19). -/
def shiftCount (v : Word) : Nat := (v.setWidth 7).toNat

/-! ## Prefixes and their users -/

/-- With B read as a break before its instruction, a user with B = 1 is cut off from its prefix (R250, R256). -/
def State.cutOff (s : State) (brk : Bool) : Bool :=
  brk && s.launch.breakPolarity == .before

/-- With B read as a break after its instruction, a prefix with B = 1 is cut off from its user (R250, R256). -/
def State.cutsNext (s : State) (brk : Bool) : Bool :=
  brk && s.launch.breakPolarity == .after

/-- An instruction that uses no prefix has none pending (R250). -/
def State.pairNone (s : State) : Option Refusal :=
  if s.pendReg.isSome || s.pendCon.isSome then some (.danglingPrefix s.pc) else none

/-- The pending constant prefixes, if any, carry the instruction's predicate and are not cut off from it (R250). -/
def State.conJoined (s : State) (brk : Bool) (pr : PredNum) : Bool :=
  match s.pendCon with
  | none => true
  | some p => p.pr == pr && !s.cutOff brk

/-- An instruction with an immediate may have constant prefixes and no REG (R250, R253). -/
def State.pairConst (s : State) (brk : Bool) (pr : PredNum) : Option Refusal :=
  if s.pendReg.isSome || !s.conJoined brk pr then some (.danglingPrefix s.pc) else none

/-- A pending REG `p` is one that the instruction can use: same predicate, not cut off, its fields fit (R250, R257). -/
def State.regJoined (s : State) (brk : Bool) (pr : PredNum) (p : PendReg) (fits : PendReg → Bool) : Bool :=
  p.pr == pr && !s.cutOff brk && fits p

/-- An instruction that may have a REG, and no constant prefix (R145, R250). -/
def State.pairMayReg (s : State) (brk : Bool) (pr : PredNum) (fits : PendReg → Bool) : Option Refusal :=
  if s.pendCon.isSome then some (.danglingPrefix s.pc)
  else
    match s.pendReg with
    | none => none
    | some p => if s.regJoined brk pr p fits then none else some (.danglingPrefix s.pc)

/-- An instruction that must have a REG, and no constant prefix (R146, R150, R240, R250). -/
def State.pairMustReg (s : State) (brk : Bool) (pr : PredNum) (fits : PendReg → Bool) : Option Refusal :=
  if s.pendCon.isSome then some (.danglingPrefix s.pc)
  else
    match s.pendReg with
    | none => some (.missingRegPrefix s.pc)
    | some p => if s.regJoined brk pr p fits then none else some (.danglingPrefix s.pc)

/-- MULI may have a REG or constant prefixes, never both (R147, R250, R253). -/
def State.pairMayRegOrConst (s : State) (brk : Bool) (pr : PredNum) (fits : PendReg → Bool) : Option Refusal :=
  match s.pendReg with
  | none => s.pairConst brk pr
  | some _ => s.pairMayReg brk pr fits

/-- The second target may be R0 or any register but the user's own target (R145; D21). -/
def targetFits (rt : RegNum) (p : PendReg) : Bool := p.rt == 0 || p.rt != rt

/-- The REG of a multiply: its operands are not used, so they are R0 (R145). -/
def fitsMul (rt : RegNum) (p : PendReg) : Bool := p.ra == 0 && p.rb == 0 && targetFits rt p

/-- The REG of a dot product: both operands and the target are used (R146). -/
def fitsDot (rt : RegNum) (p : PendReg) : Bool := targetFits rt p

/-- The REG of an extended left shift: the first operand and the target are used (R150). -/
def fitsShift (rt : RegNum) (p : PendReg) : Bool := p.rb == 0 && targetFits rt p

/-- The REG of an indexed store: only the first operand, the index, is used (R240). -/
def fitsStore (p : PendReg) : Bool := p.rb == 0 && p.rt == 0

end Sys2Proof.Machine
end

