-- ==== Sys2Proof/Machine/Flags.lean ====
section
/-! DEFINITION. The truth values that compares and sets compute. There is no flags register (R30). -/

namespace Sys2Proof.Machine

/-- How a compare reads its operands (R170). -/
inductive Signedness where
  | signed | unsigned
deriving DecidableEq, Repr

/-- `a < b` as integers (R170). -/
def Signedness.less (k : Signedness) (a b : Word) : Bool :=
  match k with
  | .signed => decide (a.toInt < b.toInt)
  | .unsigned => decide (a.toNat < b.toNat)

/-- `rel(a, b)` (R170); relations 6 and 7 test bit `b mod 128` of `a`, where BCBS admits them (R182). -/
def relHolds (r : Rel) (k : Signedness) (a b : Word) : Bool :=
  match r with
  | .lt => k.less a b
  | .ge => !k.less a b
  | .le => !k.less b a
  | .gt => k.less b a
  | .eq => a == b
  | .ne => a != b
  | .bc => !a.getLsbD (b.toNat % 128)
  | .bs => a.getLsbD (b.toNat % 128)

/-- The relation has no meaning under this launch (R182). -/
def State.relationUndefined (s : State) (r : Rel) : Bool :=
  (r == .bc || r == .bs) && s.launch.bcbs == .refuse

/-- True is the 128-bit value 1, false is 0 (R177; D5). -/
def truthWord (b : Bool) : Word := if b then 1 else 0

/-- The predicate writes of a compare: Pt1 receives the relation, Pt2 what CMP_PT2 says (R171). -/
def State.writeTargets (s : State) (pt1 pt2 : PredNum) (t : Bool) : State :=
  match s.launch.cmpPt2 with
  | .complement => (s.setPred pt1 t).setPred pt2 (!t)
  | .same => (s.setPred pt1 t).setPred pt2 t
  | .unwritten => s.setPred pt1 t

end Sys2Proof.Machine
end

