-- ==== Sys2Proof/Machine/Alu.lean ====
section
/-! DEFINITION. Addition, subtraction and bitwise logic (R130 to R143). -/

namespace Sys2Proof.Machine

/-- An instruction whose one effect is `x[rt] <- v` (R130). -/
def writeReg (pairing : Option Refusal) (rt : RegNum) (v : Word) (pr : PredNum) (s : State) : Result :=
  issue pairing pr s (.next (s.setReg rt v).retire)

/-- ADD (R131). -/
def execAdd (_brk : Bool) (rb ra rt : RegNum) (pr : PredNum) (s : State) : Result :=
  writeReg s.pairNone rt (s.reg ra + s.reg rb) pr s

/-- ADDI (R132). -/
def execAddi (brk : Bool) (imm : BitVec 15) (ra rt : RegNum) (pr : PredNum) (s : State) : Result :=
  writeReg (s.pairConst brk pr) rt (s.reg ra + s.constant imm) pr s

/-- SUB (R133). -/
def execSub (_brk : Bool) (rb ra rt : RegNum) (pr : PredNum) (s : State) : Result :=
  writeReg s.pairNone rt (s.reg ra - s.reg rb) pr s

/-- SUBFI, the immediate minus the register (R134). -/
def execSubfi (brk : Bool) (imm : BitVec 15) (ra rt : RegNum) (pr : PredNum) (s : State) : Result :=
  writeReg (s.pairConst brk pr) rt (s.constant imm - s.reg ra) pr s

/-- AND (R135). -/
def execAnd (_brk : Bool) (rb ra rt : RegNum) (pr : PredNum) (s : State) : Result :=
  writeReg s.pairNone rt (s.reg ra &&& s.reg rb) pr s

/-- ANDI (R136). -/
def execAndi (brk : Bool) (imm : BitVec 15) (ra rt : RegNum) (pr : PredNum) (s : State) : Result :=
  writeReg (s.pairConst brk pr) rt (s.reg ra &&& s.constant imm) pr s

/-- OR (R137). -/
def execOr (_brk : Bool) (rb ra rt : RegNum) (pr : PredNum) (s : State) : Result :=
  writeReg s.pairNone rt (s.reg ra ||| s.reg rb) pr s

/-- ORI (R138). -/
def execOri (brk : Bool) (imm : BitVec 15) (ra rt : RegNum) (pr : PredNum) (s : State) : Result :=
  writeReg (s.pairConst brk pr) rt (s.reg ra ||| s.constant imm) pr s

/-- XOR (R139). -/
def execXor (_brk : Bool) (rb ra rt : RegNum) (pr : PredNum) (s : State) : Result :=
  writeReg s.pairNone rt (s.reg ra ^^^ s.reg rb) pr s

/-- XORI (R140). -/
def execXori (brk : Bool) (imm : BitVec 15) (ra rt : RegNum) (pr : PredNum) (s : State) : Result :=
  writeReg (s.pairConst brk pr) rt (s.reg ra ^^^ s.constant imm) pr s

/-- NAND (R141). -/
def execNand (_brk : Bool) (rb ra rt : RegNum) (pr : PredNum) (s : State) : Result :=
  writeReg s.pairNone rt (~~~(s.reg ra &&& s.reg rb)) pr s

/-- NOR (R142). -/
def execNor (_brk : Bool) (rb ra rt : RegNum) (pr : PredNum) (s : State) : Result :=
  writeReg s.pairNone rt (~~~(s.reg ra ||| s.reg rb)) pr s

/-- XNOR (R143). -/
def execXnor (_brk : Bool) (rb ra rt : RegNum) (pr : PredNum) (s : State) : Result :=
  writeReg s.pairNone rt (~~~(s.reg ra ^^^ s.reg rb)) pr s

end Sys2Proof.Machine
end

