-- ==== Sys2Proof/Machine/Compare.lean ====
section
/-! DEFINITION. Compares to predicates and sets to a register (R170 to R182). -/

namespace Sys2Proof.Machine

/-- A compare of `a` with `b`: the word-level refusals first (R294, step 4), then Pt1 and Pt2 (R171). -/
def compareTo (k : Signedness) (rel : Rel) (pt2 pt1 : PredNum) (pairing : Option Refusal) (a b : Word) (pr : PredNum)
    (s : State) : Result :=
  if s.relationUndefined rel then .refused (.undefinedRelation s.pc)
  else if sameTargets pt1 pt2 then .refused (.samePredicateTargets s.pc)
  else issue pairing pr s (.next (s.writeTargets pt1 pt2 (relHolds rel k a b)).retire)

/-- A set of Rt to 1 or 0 by the relation of `a` to `b`, after the word-level refusal (R177, R182, R294). -/
def setTo (k : Signedness) (rel : Rel) (rt : RegNum) (pairing : Option Refusal) (a b : Word) (pr : PredNum) (s : State) :
    Result :=
  if s.relationUndefined rel then .refused (.undefinedRelation s.pc)
  else writeReg pairing rt (truthWord (relHolds rel k a b)) pr s

/-- CMP (R171). -/
def execCmp (_brk : Bool) (rel : Rel) (pt2 pt1 : PredNum) (rb ra : RegNum) (pr : PredNum) (s : State) : Result :=
  compareTo .signed rel pt2 pt1 s.pairNone (s.reg ra) (s.reg rb) pr s

/-- CMPU (R172). -/
def execCmpu (_brk : Bool) (rel : Rel) (pt2 pt1 : PredNum) (rb ra : RegNum) (pr : PredNum) (s : State) : Result :=
  compareTo .unsigned rel pt2 pt1 s.pairNone (s.reg ra) (s.reg rb) pr s

/-- CMPI (R173). -/
def execCmpi (brk : Bool) (rel : Rel) (pt2 pt1 : PredNum) (imm : BitVec 6) (ra : RegNum) (pr : PredNum)
    (s : State) : Result :=
  compareTo .signed rel pt2 pt1 (s.pairConst brk pr) (s.reg ra) (s.constant imm) pr s

/-- CMPUI (R174). -/
def execCmpui (brk : Bool) (rel : Rel) (pt2 pt1 : PredNum) (imm : BitVec 6) (ra : RegNum) (pr : PredNum)
    (s : State) : Result :=
  compareTo .unsigned rel pt2 pt1 (s.pairConst brk pr) (s.reg ra) (s.constant imm) pr s

/-- SET (R177). -/
def execSet (_brk : Bool) (rel : Rel) (rb ra rt : RegNum) (pr : PredNum) (s : State) : Result :=
  setTo .signed rel rt s.pairNone (s.reg ra) (s.reg rb) pr s

/-- SETU (R178). -/
def execSetu (_brk : Bool) (rel : Rel) (rb ra rt : RegNum) (pr : PredNum) (s : State) : Result :=
  setTo .unsigned rel rt s.pairNone (s.reg ra) (s.reg rb) pr s

/-- SETI (R179). -/
def execSeti (brk : Bool) (rel : Rel) (imm : BitVec 12) (ra rt : RegNum) (pr : PredNum) (s : State) : Result :=
  setTo .signed rel rt (s.pairConst brk pr) (s.reg ra) (s.constant imm) pr s

/-- SETUI (R180). -/
def execSetui (brk : Bool) (rel : Rel) (imm : BitVec 12) (ra rt : RegNum) (pr : PredNum) (s : State) : Result :=
  setTo .unsigned rel rt (s.pairConst brk pr) (s.reg ra) (s.constant imm) pr s

end Sys2Proof.Machine
end

