-- ==== Sys2Proof/Machine/Flow.lean ====
section
/-! DEFINITION. Branches, the register jump and NOP (R195 to R203). -/

namespace Sys2Proof.Machine

/-- The branch target: the branch's own address plus the displacement in bytes, modulo 2^128 (R195). -/
def State.target (s : State) (disp : BitVec 27) : Addr := s.pc + disp.signExtend 128

/-- What BNZ and BZ test, true for non-zero: the predicate named in bits 5..0, or under BRANCH_TEST = gpr the general
register named there (R196, R197, R203). -/
def State.branchNonZero (s : State) (n : BitVec 6) : Bool :=
  match s.launch.branchTest with
  | .predicate => s.pred n
  | .gpr => s.reg n != 0

/-- A branch that no guard wraps and no prefix serves: to the target if `taken`, else to the next instruction (R196, R197). -/
def branchIf (taken : Bool) (disp : BitVec 27) (s : State) : Result :=
  match s.pairNone with
  | some r => .refused r
  | none => .next (if taken then s.retireTo (s.target disp) else s.retire)

/-- BNZ (R196). -/
def execBnz (_brk : Bool) (disp : BitVec 27) (pr : PredNum) (s : State) : Result :=
  branchIf (s.branchNonZero pr) disp s

/-- BZ (R197). -/
def execBz (_brk : Bool) (disp : BitVec 27) (pr : PredNum) (s : State) : Result :=
  branchIf (!s.branchNonZero pr) disp s

/-- BRA, which is BZ P0, or BZ R0 under BRANCH_TEST = gpr (R105, R198, R203). -/
def execBra (_brk : Bool) (disp : BitVec 27) (s : State) : Result :=
  branchIf (!s.branchNonZero 0) disp s

/-- BSR, which links R1 (R199). -/
def execBsr (_brk : Bool) (disp : BitVec 27) (pr : PredNum) (s : State) : Result :=
  issue s.pairNone pr s (.next ((s.setReg 1 s.next).retireTo (s.target disp)))

/-- JMR; the target is read before the return address is written (R200). -/
def execJmr (_brk : Bool) (ra rt : RegNum) (pr : PredNum) (s : State) : Result :=
  issue s.pairNone pr s (.next ((s.setReg rt s.next).retireTo (s.reg ra)))

/-- NOP, which no predicate guards (R201). -/
def execNop (_brk : Bool) (_ignored : BitVec 33) (s : State) : Result :=
  match s.pairNone with
  | some r => .refused r
  | none => .next s.retire

end Sys2Proof.Machine
end

