-- ==== Sys2Proof/Machine/LoadStore.lean ====
section
/-! DEFINITION. Loads and stores (R210 to R245). -/

namespace Sys2Proof.Machine

/-- A load of `n` bytes to Rt (R211 to R228): the access is made, and can be refused, even when Rt is R0 (R21; D37). -/
def load (e : Ext) (n : Nat) (m : AddrMode) (rt : RegNum) (pairing : Option Refusal) (pr : PredNum) (s : State) : Result :=
  issue pairing pr s
    (match s.memRead (m.address s) n with
     | .error r => .refused r
     | .ok v => .next (s.setReg rt (e.extend n v)).retire)

/-- A store of the low `n` bytes of Rs (R229 to R245). -/
def store (n : Nat) (m : AddrMode) (rs : RegNum) (pairing : Option Refusal) (pr : PredNum) (s : State) : Result :=
  issue pairing pr s
    (match s.memWrite (m.address s) n (s.reg rs) with
     | .error r => .refused r
     | .ok s' => .next s'.retire)

/-- LDB (R211). -/
def execLdb (brk : Bool) (imm : BitVec 15) (ra rt : RegNum) (pr : PredNum) (s : State) : Result :=
  load .sign 1 (.immediate imm ra) rt (s.pairConst brk pr) pr s

/-- LDBU (R212). -/
def execLdbu (brk : Bool) (imm : BitVec 15) (ra rt : RegNum) (pr : PredNum) (s : State) : Result :=
  load .zero 1 (.immediate imm ra) rt (s.pairConst brk pr) pr s

/-- LDW (R213). -/
def execLdw (brk : Bool) (imm : BitVec 15) (ra rt : RegNum) (pr : PredNum) (s : State) : Result :=
  load .sign 2 (.immediate imm ra) rt (s.pairConst brk pr) pr s

/-- LDWU (R214). -/
def execLdwu (brk : Bool) (imm : BitVec 15) (ra rt : RegNum) (pr : PredNum) (s : State) : Result :=
  load .zero 2 (.immediate imm ra) rt (s.pairConst brk pr) pr s

/-- LDT (R215). -/
def execLdt (brk : Bool) (imm : BitVec 15) (ra rt : RegNum) (pr : PredNum) (s : State) : Result :=
  load .sign 4 (.immediate imm ra) rt (s.pairConst brk pr) pr s

/-- LDTU (R216). -/
def execLdtu (brk : Bool) (imm : BitVec 15) (ra rt : RegNum) (pr : PredNum) (s : State) : Result :=
  load .zero 4 (.immediate imm ra) rt (s.pairConst brk pr) pr s

/-- LDO (R217). -/
def execLdo (brk : Bool) (imm : BitVec 15) (ra rt : RegNum) (pr : PredNum) (s : State) : Result :=
  load .sign 8 (.immediate imm ra) rt (s.pairConst brk pr) pr s

/-- LDOU (R218). -/
def execLdou (brk : Bool) (imm : BitVec 15) (ra rt : RegNum) (pr : PredNum) (s : State) : Result :=
  load .zero 8 (.immediate imm ra) rt (s.pairConst brk pr) pr s

/-- LDH (R219). -/
def execLdh (brk : Bool) (imm : BitVec 15) (ra rt : RegNum) (pr : PredNum) (s : State) : Result :=
  load .sign 16 (.immediate imm ra) rt (s.pairConst brk pr) pr s

/-- LDBX (R220). -/
def execLdbx (_brk : Bool) (rb ra rt : RegNum) (pr : PredNum) (s : State) : Result :=
  load .sign 1 (.indexed rb ra) rt s.pairNone pr s

/-- LDBUX (R221). -/
def execLdbux (_brk : Bool) (rb ra rt : RegNum) (pr : PredNum) (s : State) : Result :=
  load .zero 1 (.indexed rb ra) rt s.pairNone pr s

/-- LDWX (R222). -/
def execLdwx (_brk : Bool) (rb ra rt : RegNum) (pr : PredNum) (s : State) : Result :=
  load .sign 2 (.indexed rb ra) rt s.pairNone pr s

/-- LDWUX (R223). -/
def execLdwux (_brk : Bool) (rb ra rt : RegNum) (pr : PredNum) (s : State) : Result :=
  load .zero 2 (.indexed rb ra) rt s.pairNone pr s

/-- LDTX (R224). -/
def execLdtx (_brk : Bool) (rb ra rt : RegNum) (pr : PredNum) (s : State) : Result :=
  load .sign 4 (.indexed rb ra) rt s.pairNone pr s

/-- LDTUX (R225). -/
def execLdtux (_brk : Bool) (rb ra rt : RegNum) (pr : PredNum) (s : State) : Result :=
  load .zero 4 (.indexed rb ra) rt s.pairNone pr s

/-- LDOX (R226). -/
def execLdox (_brk : Bool) (rb ra rt : RegNum) (pr : PredNum) (s : State) : Result :=
  load .sign 8 (.indexed rb ra) rt s.pairNone pr s

/-- LDOUX (R227). -/
def execLdoux (_brk : Bool) (rb ra rt : RegNum) (pr : PredNum) (s : State) : Result :=
  load .zero 8 (.indexed rb ra) rt s.pairNone pr s

/-- LDHX (R228). -/
def execLdhx (_brk : Bool) (rb ra rt : RegNum) (pr : PredNum) (s : State) : Result :=
  load .sign 16 (.indexed rb ra) rt s.pairNone pr s

/-- STB (R229). -/
def execStb (brk : Bool) (imm : BitVec 15) (ra rs : RegNum) (pr : PredNum) (s : State) : Result :=
  store 1 (.immediate imm ra) rs (s.pairConst brk pr) pr s

/-- STW (R230). -/
def execStw (brk : Bool) (imm : BitVec 15) (ra rs : RegNum) (pr : PredNum) (s : State) : Result :=
  store 2 (.immediate imm ra) rs (s.pairConst brk pr) pr s

/-- STT (R231). -/
def execStt (brk : Bool) (imm : BitVec 15) (ra rs : RegNum) (pr : PredNum) (s : State) : Result :=
  store 4 (.immediate imm ra) rs (s.pairConst brk pr) pr s

/-- STO (R232). -/
def execSto (brk : Bool) (imm : BitVec 15) (ra rs : RegNum) (pr : PredNum) (s : State) : Result :=
  store 8 (.immediate imm ra) rs (s.pairConst brk pr) pr s

/-- STH (R233). -/
def execSth (brk : Bool) (imm : BitVec 15) (ra rs : RegNum) (pr : PredNum) (s : State) : Result :=
  store 16 (.immediate imm ra) rs (s.pairConst brk pr) pr s

/-- STBX (R240, R241). -/
def execStbx (brk : Bool) (ra rs : RegNum) (pr : PredNum) (s : State) : Result :=
  store 1 (.indexedByReg ra) rs (s.pairMustReg brk pr fitsStore) pr s

/-- STWX (R240, R242). -/
def execStwx (brk : Bool) (ra rs : RegNum) (pr : PredNum) (s : State) : Result :=
  store 2 (.indexedByReg ra) rs (s.pairMustReg brk pr fitsStore) pr s

/-- STTX (R240, R243). -/
def execSttx (brk : Bool) (ra rs : RegNum) (pr : PredNum) (s : State) : Result :=
  store 4 (.indexedByReg ra) rs (s.pairMustReg brk pr fitsStore) pr s

/-- STOX (R240, R244). -/
def execStox (brk : Bool) (ra rs : RegNum) (pr : PredNum) (s : State) : Result :=
  store 8 (.indexedByReg ra) rs (s.pairMustReg brk pr fitsStore) pr s

/-- STHX (R240, R245). -/
def execSthx (brk : Bool) (ra rs : RegNum) (pr : PredNum) (s : State) : Result :=
  store 16 (.indexedByReg ra) rs (s.pairMustReg brk pr fitsStore) pr s

end Sys2Proof.Machine
end

