-- ==== Sys2Proof/Machine/Multiply.lean ====
section
/-! DEFINITION. Multiply and the two-term dot products (R144 to R147). -/

namespace Sys2Proof.Machine

/-- A multiply whose exact result is `p`: the low half goes to Rt, the high half to the target of a REG before it
(R144, R145, R146); the result is taken modulo 2^256. -/
def writeProduct (pairing : Option Refusal) (rt : RegNum) (p : Int) (pr : PredNum) (s : State) : Result :=
  let r : BitVec 256 := BitVec.ofInt 256 p
  issue pairing pr s (.next ((s.setReg rt (r.extractLsb' 0 128)).setRegT (r.extractLsb' 128 128)).retire)

/-- `signed(a)*signed(b) + signed(c)*signed(d)` (R146). -/
def dotSum (a b c d : Word) : Int := a.toInt * b.toInt + c.toInt * d.toInt

/-- `signed(a)*signed(b) - signed(c)*signed(d)` (R146). -/
def dotDiff (a b c d : Word) : Int := a.toInt * b.toInt - c.toInt * d.toInt

/-- MUL.S (R144, R145). -/
def execMulS (brk : Bool) (rb ra rt : RegNum) (pr : PredNum) (s : State) : Result :=
  writeProduct (s.pairMayReg brk pr (fitsMul rt)) rt ((s.reg ra).toInt * (s.reg rb).toInt) pr s

/-- MUL.U (R144, R145). -/
def execMulU (brk : Bool) (rb ra rt : RegNum) (pr : PredNum) (s : State) : Result :=
  writeProduct (s.pairMayReg brk pr (fitsMul rt)) rt ((s.reg ra).toNat * (s.reg rb).toNat : Nat) pr s

/-- MUL.SU, Ra signed by Rb unsigned (R144, R145). -/
def execMulSu (brk : Bool) (rb ra rt : RegNum) (pr : PredNum) (s : State) : Result :=
  writeProduct (s.pairMayReg brk pr (fitsMul rt)) rt ((s.reg ra).toInt * ((s.reg rb).toNat : Int)) pr s

/-- MULI, signed (R147). -/
def execMuli (brk : Bool) (imm : BitVec 15) (ra rt : RegNum) (pr : PredNum) (s : State) : Result :=
  writeProduct (s.pairMayRegOrConst brk pr (fitsMul rt)) rt ((s.reg ra).toInt * (s.constant imm).toInt) pr s

/-- MUL with Op3 = 4 (R146). -/
def execMulOp4 (brk : Bool) (rb ra rt : RegNum) (pr : PredNum) (s : State) : Result :=
  writeProduct (s.pairMustReg brk pr (fitsDot rt)) rt (dotSum (s.reg ra) (s.reg rb) s.regC s.regD) pr s

/-- MUL with Op3 = 5 (R146). -/
def execMulOp5 (brk : Bool) (rb ra rt : RegNum) (pr : PredNum) (s : State) : Result :=
  writeProduct (s.pairMustReg brk pr (fitsDot rt)) rt (-dotSum (s.reg ra) (s.reg rb) s.regC s.regD) pr s

/-- MUL with Op3 = 6 (R146). -/
def execMulOp6 (brk : Bool) (rb ra rt : RegNum) (pr : PredNum) (s : State) : Result :=
  writeProduct (s.pairMustReg brk pr (fitsDot rt)) rt (dotDiff (s.reg ra) (s.reg rb) s.regC s.regD) pr s

/-- MUL with Op3 = 7 (R146). -/
def execMulOp7 (brk : Bool) (rb ra rt : RegNum) (pr : PredNum) (s : State) : Result :=
  writeProduct (s.pairMustReg brk pr (fitsDot rt)) rt (-dotDiff (s.reg ra) (s.reg rb) s.regC s.regD) pr s

end Sys2Proof.Machine
end

