-- ==== Sys2Proof/Machine/Named.lean ====
section
/-! DEFINITION. The instructions that the opcode maps name and nothing describes: refused by name whatever the guard
says (R97, R246, R281). -/

namespace Sys2Proof.Machine

/-- SYS (R281). -/
def execSys (_brk : Bool) (_rest : BitVec 33) (_s : State) : Result := .refused (.namedOnly "SYS")

/-- MOD (R281). -/
def execMod (_brk : Bool) (_rest : BitVec 33) (_s : State) : Result := .refused (.namedOnly "MOD")

/-- FLT (R281). -/
def execFlt (_brk : Bool) (_rest : BitVec 33) (_s : State) : Result := .refused (.namedOnly "FLT")

/-- FCMP (R175). -/
def execFcmp (_brk : Bool) (_op3 : BitVec 3) (_pt2 _pt1 : PredNum) (_rb _ra : RegNum) (_pr : PredNum)
    (_s : State) : Result := .refused (.namedOnly "FCMP")

/-- CMP@19 (R176). -/
def execCmp19 (_brk : Bool) (_op3 : BitVec 3) (_pt2 _pt1 : PredNum) (_rb _ra : RegNum) (_pr : PredNum)
    (_s : State) : Result := .refused (.namedOnly "CMP@19")

/-- FCMPI (R175). -/
def execFcmpi (_brk : Bool) (_op3 : BitVec 3) (_pt2 _pt1 : PredNum) (_imm : BitVec 6) (_ra : RegNum) (_pr : PredNum)
    (_s : State) : Result := .refused (.namedOnly "FCMPI")

/-- CMPI@23 (R176). -/
def execCmpi23 (_brk : Bool) (_op3 : BitVec 3) (_pt2 _pt1 : PredNum) (_imm : BitVec 6) (_ra : RegNum) (_pr : PredNum)
    (_s : State) : Result := .refused (.namedOnly "CMPI@23")

/-- FDP (R281). -/
def execFdp (_brk : Bool) (_rest : BitVec 33) (_s : State) : Result := .refused (.namedOnly "FDP")

/-- FFDP (R281). -/
def execFfdp (_brk : Bool) (_rest : BitVec 33) (_s : State) : Result := .refused (.namedOnly "FFDP")

/-- FSETI (R181). -/
def execFseti (_brk : Bool) (_op3 : BitVec 3) (_imm : BitVec 12) (_ra _rt : RegNum) (_pr : PredNum)
    (_s : State) : Result := .refused (.namedOnly "FSETI")

/-- FSET (R181). -/
def execFset (_brk : Bool) (_op3 : BitVec 3) (_rb _ra _rt : RegNum) (_pr : PredNum) (_s : State) : Result := .refused (.namedOnly "FSET")

/-- LDHR (R246). -/
def execLdhr (_brk : Bool) (_imm : BitVec 15) (_ra _rt : RegNum) (_pr : PredNum) (_s : State) : Result := .refused (.namedOnly "LDHR")

/-- LDHRX (R246). -/
def execLdhrx (_brk : Bool) (_op3 : BitVec 3) (_rb _ra _rt : RegNum) (_pr : PredNum) (_s : State) : Result := .refused (.namedOnly "LDHRX")

/-- STHC (R246). -/
def execSthc (_brk : Bool) (_imm : BitVec 15) (_ra _rs : RegNum) (_pr : PredNum) (_s : State) : Result := .refused (.namedOnly "STHC")

/-- STHCX (R246). -/
def execSthcx (_brk : Bool) (_op3 : BitVec 3) (_rb _ra _rs : RegNum) (_pr : PredNum) (_s : State) : Result := .refused (.namedOnly "STHCX")

/-- LDCHK (R246). -/
def execLdchk (_brk : Bool) (_op3 : BitVec 3) (_rb _ra _rt : RegNum) (_pr : PredNum) (_s : State) : Result := .refused (.namedOnly "LDCHK")

end Sys2Proof.Machine
end

