-- ==== Sys2Proof/Machine/Shift.lean ====
section
/-! DEFINITION. Shifts (R148 to R155). -/

namespace Sys2Proof.Machine

/-- The 256-bit value `a` high, `c` low, shifted left by `n` over 384 bits (R150). -/
def shiftFull (a c : Word) (n : Nat) : BitVec 384 := (a ++ c).setWidth 384 <<< n

/-- An extended left shift by `n`: Rt receives Ra with the top bits of c entering, the target of the REG the bits that
left Ra (R150). -/
def shiftLeftExtended (brk : Bool) (ra rt : RegNum) (n : Nat) (pr : PredNum) (s : State) : Result :=
  let full := shiftFull (s.reg ra) s.regC n
  issue (s.pairMustReg brk pr (fitsShift rt)) pr s
    (.next ((s.setReg rt (full.extractLsb' 128 128)).setRegT (full.extractLsb' 256 128)).retire)

/-- SLL, register form (R148). -/
def execSll (_brk : Bool) (rb ra rt : RegNum) (pr : PredNum) (s : State) : Result :=
  writeReg s.pairNone rt (s.reg ra <<< shiftCount (s.reg rb)) pr s

/-- SLL, immediate form (R149). -/
def execSlli (_brk : Bool) (imm : BitVec 7) (ra rt : RegNum) (pr : PredNum) (s : State) : Result :=
  writeReg s.pairNone rt (s.reg ra <<< imm.toNat) pr s

/-- SLL with e = 1, register form (R150). -/
def execSllE (brk : Bool) (rb ra rt : RegNum) (pr : PredNum) (s : State) : Result :=
  shiftLeftExtended brk ra rt (shiftCount (s.reg rb)) pr s

/-- SLL with e = 1, immediate form (R150). -/
def execSllEi (brk : Bool) (imm : BitVec 7) (ra rt : RegNum) (pr : PredNum) (s : State) : Result :=
  shiftLeftExtended brk ra rt imm.toNat pr s

/-- SRL, register form (R151). -/
def execSrl (_brk : Bool) (rb ra rt : RegNum) (pr : PredNum) (s : State) : Result :=
  writeReg s.pairNone rt (s.reg ra >>> shiftCount (s.reg rb)) pr s

/-- SRL, immediate form (R152). -/
def execSrli (_brk : Bool) (imm : BitVec 7) (ra rt : RegNum) (pr : PredNum) (s : State) : Result :=
  writeReg s.pairNone rt (s.reg ra >>> imm.toNat) pr s

/-- SRL with e = 1, register form: refused (R155). -/
def execSrlE (_brk : Bool) (_rb _ra _rt : RegNum) (_pr : PredNum) (s : State) : Result := .refused (.extendedRightShift s.pc)

/-- SRL with e = 1, immediate form: refused (R155). -/
def execSrlEi (_brk : Bool) (_imm : BitVec 7) (_ra _rt : RegNum) (_pr : PredNum) (s : State) : Result := .refused (.extendedRightShift s.pc)

/-- SRA, register form (R153). -/
def execSra (_brk : Bool) (rb ra rt : RegNum) (pr : PredNum) (s : State) : Result :=
  writeReg s.pairNone rt ((s.reg ra).sshiftRight (shiftCount (s.reg rb))) pr s

/-- SRA, immediate form (R154). -/
def execSrai (_brk : Bool) (imm : BitVec 7) (ra rt : RegNum) (pr : PredNum) (s : State) : Result :=
  writeReg s.pairNone rt ((s.reg ra).sshiftRight imm.toNat) pr s

/-- SRA with e = 1, register form: refused (R155). -/
def execSraE (_brk : Bool) (_rb _ra _rt : RegNum) (_pr : PredNum) (s : State) : Result := .refused (.extendedRightShift s.pc)

/-- SRA with e = 1, immediate form: refused (R155). -/
def execSraEi (_brk : Bool) (_imm : BitVec 7) (_ra _rt : RegNum) (_pr : PredNum) (s : State) : Result := .refused (.extendedRightShift s.pc)

end Sys2Proof.Machine
end

