-- ==== Sys2Proof/Machine/Special.lean ====
section
/-! DEFINITION. The prefixes REG and CON1 to CON4, and the refused modifiers and accesses CARRY and CSR (R190 to R193,
R250 to R259). -/

namespace Sys2Proof.Machine

/-- REG: the fields and the predicate become pending for the next instruction, whatever the predicate says, so that the
pair is recognised (R250, R257; log 10, 11). A REG is no user of a prefix, and with a break after it has no user. -/
def execReg (brk : Bool) (rb ra rt : RegNum) (pr : PredNum) (s : State) : Result :=
  if s.cutsNext brk then .refused (.danglingPrefix s.pc)
  else
    match s.pairNone with
    | some r => .refused r
    | none => .next { s with pc := s.next, pendReg := some ⟨ra, rb, rt, pr⟩ }

/-- The chunks pending before a constant prefix (R253). -/
def State.pendingChunks (s : State) : List (ConNum × BitVec 27) :=
  match s.pendCon with
  | none => []
  | some p => p.chunks

/-- A constant prefix: refused unless CON_A admits it (R255); admitted, its 27 bits join those of the constant prefixes
before it, which carry the same predicate and are not cut off from it (R250, R253; log 9, 11). DESIGN CHOICE (log 9, R254
leaves it open): CON1 to CON4 may stand in any order, repeat, and be any number. -/
def constantChunk (num : ConNum) (brk : Bool) (imm : BitVec 27) (pr : PredNum) (s : State) : Result :=
  if s.launch.conA = .refuse then .refused (.constantPrefix s.pc)
  else if s.cutsNext brk then .refused (.danglingPrefix s.pc)
  else
    match s.pairConst brk pr with
    | some r => .refused r
    | none => .next { s with pc := s.next, pendCon := some ⟨s.pendingChunks ++ [(num, imm)], pr⟩ }

/-- CON1 (R253, R255). -/
def execCon1 (brk : Bool) (imm : BitVec 27) (pr : PredNum) (s : State) : Result :=
  constantChunk .con1 brk imm pr s

/-- CON2 (R253, R255). -/
def execCon2 (brk : Bool) (imm : BitVec 27) (pr : PredNum) (s : State) : Result :=
  constantChunk .con2 brk imm pr s

/-- CON3 (R253, R255). -/
def execCon3 (brk : Bool) (imm : BitVec 27) (pr : PredNum) (s : State) : Result :=
  constantChunk .con3 brk imm pr s

/-- CON4 (R253, R255). -/
def execCon4 (brk : Bool) (imm : BitVec 27) (pr : PredNum) (s : State) : Result :=
  constantChunk .con4 brk imm pr s

/-- CSR: no control or special register exists, so every access is refused (R31, R193). -/
def execCsr (_op2 _m2 : BitVec 2) (csr : BitVec 10) (_ra _rt : BitVec 5) (_pr : PredNum) (s : State) : Result := .refused (.undefinedCSR s.pc csr)

/-- CARRY is refused (R252). -/
def execCarry (_io7 _io6 _io5 _io4 _io3 _io2 _io1 _io0 : BitVec 2) (_rt : BitVec 5) (_pr : PredNum)
    (s : State) : Result := .refused (.carryModifier s.pc)

end Sys2Proof.Machine
end

