-- ==== Sys2Proof/Machine/Dispatch.lean ====
section
/-! DEFINITION. One arm per constructor of Instr, each one direct call of the instruction's meaning. -/

namespace Sys2Proof.Machine

/-- What one instruction does (steps 3 to 9 of R294, but for the checks of neighbouring words, which the step makes). -/
def exec (i : Instr) (s : State) : Host.Outcome State Fault Refusal :=
  match i with
  | .sys brk rest => Sys2Proof.Machine.execSys brk rest s
  | .mod brk rest => Sys2Proof.Machine.execMod brk rest s
  | .flt brk rest => Sys2Proof.Machine.execFlt brk rest s
  | .addi brk imm ra rt pr => Sys2Proof.Machine.execAddi brk imm ra rt pr s
  | .subfi brk imm ra rt pr => Sys2Proof.Machine.execSubfi brk imm ra rt pr s
  | .andi brk imm ra rt pr => Sys2Proof.Machine.execAndi brk imm ra rt pr s
  | .ori brk imm ra rt pr => Sys2Proof.Machine.execOri brk imm ra rt pr s
  | .xori brk imm ra rt pr => Sys2Proof.Machine.execXori brk imm ra rt pr s
  | .muli brk imm ra rt pr => Sys2Proof.Machine.execMuli brk imm ra rt pr s
  | .bnz brk disp pr => Sys2Proof.Machine.execBnz brk disp pr s
  | .bz brk disp pr => Sys2Proof.Machine.execBz brk disp pr s
  | .bra brk disp => Sys2Proof.Machine.execBra brk disp s
  | .bsr brk disp pr => Sys2Proof.Machine.execBsr brk disp pr s
  | .cmp brk rel pt2 pt1 rb ra pr => Sys2Proof.Machine.execCmp brk rel pt2 pt1 rb ra pr s
  | .cmpu brk rel pt2 pt1 rb ra pr => Sys2Proof.Machine.execCmpu brk rel pt2 pt1 rb ra pr s
  | .fcmp brk op3 pt2 pt1 rb ra pr => Sys2Proof.Machine.execFcmp brk op3 pt2 pt1 rb ra pr s
  | .cmp19 brk op3 pt2 pt1 rb ra pr => Sys2Proof.Machine.execCmp19 brk op3 pt2 pt1 rb ra pr s
  | .cmpi brk rel pt2 pt1 imm ra pr => Sys2Proof.Machine.execCmpi brk rel pt2 pt1 imm ra pr s
  | .cmpui brk rel pt2 pt1 imm ra pr => Sys2Proof.Machine.execCmpui brk rel pt2 pt1 imm ra pr s
  | .fcmpi brk op3 pt2 pt1 imm ra pr => Sys2Proof.Machine.execFcmpi brk op3 pt2 pt1 imm ra pr s
  | .cmpi23 brk op3 pt2 pt1 imm ra pr => Sys2Proof.Machine.execCmpi23 brk op3 pt2 pt1 imm ra pr s
  | .fdp brk rest => Sys2Proof.Machine.execFdp brk rest s
  | .ffdp brk rest => Sys2Proof.Machine.execFfdp brk rest s
  | .seti brk rel imm ra rt pr => Sys2Proof.Machine.execSeti brk rel imm ra rt pr s
  | .setui brk rel imm ra rt pr => Sys2Proof.Machine.execSetui brk rel imm ra rt pr s
  | .fseti brk op3 imm ra rt pr => Sys2Proof.Machine.execFseti brk op3 imm ra rt pr s
  | .ldb brk imm ra rt pr => Sys2Proof.Machine.execLdb brk imm ra rt pr s
  | .ldbu brk imm ra rt pr => Sys2Proof.Machine.execLdbu brk imm ra rt pr s
  | .ldw brk imm ra rt pr => Sys2Proof.Machine.execLdw brk imm ra rt pr s
  | .ldwu brk imm ra rt pr => Sys2Proof.Machine.execLdwu brk imm ra rt pr s
  | .ldt brk imm ra rt pr => Sys2Proof.Machine.execLdt brk imm ra rt pr s
  | .ldtu brk imm ra rt pr => Sys2Proof.Machine.execLdtu brk imm ra rt pr s
  | .ldo brk imm ra rt pr => Sys2Proof.Machine.execLdo brk imm ra rt pr s
  | .ldou brk imm ra rt pr => Sys2Proof.Machine.execLdou brk imm ra rt pr s
  | .ldh brk imm ra rt pr => Sys2Proof.Machine.execLdh brk imm ra rt pr s
  | .ldhr brk imm ra rt pr => Sys2Proof.Machine.execLdhr brk imm ra rt pr s
  | .stb brk imm ra rs pr => Sys2Proof.Machine.execStb brk imm ra rs pr s
  | .stw brk imm ra rs pr => Sys2Proof.Machine.execStw brk imm ra rs pr s
  | .stt brk imm ra rs pr => Sys2Proof.Machine.execStt brk imm ra rs pr s
  | .sto brk imm ra rs pr => Sys2Proof.Machine.execSto brk imm ra rs pr s
  | .sth brk imm ra rs pr => Sys2Proof.Machine.execSth brk imm ra rs pr s
  | .sthc brk imm ra rs pr => Sys2Proof.Machine.execSthc brk imm ra rs pr s
  | .con4 brk imm pr => Sys2Proof.Machine.execCon4 brk imm pr s
  | .nop brk ignored => Sys2Proof.Machine.execNop brk ignored s
  | .con1 brk imm pr => Sys2Proof.Machine.execCon1 brk imm pr s
  | .con2 brk imm pr => Sys2Proof.Machine.execCon2 brk imm pr s
  | .con3 brk imm pr => Sys2Proof.Machine.execCon3 brk imm pr s
  | .sll brk rb ra rt pr => Sys2Proof.Machine.execSll brk rb ra rt pr s
  | .slli brk imm ra rt pr => Sys2Proof.Machine.execSlli brk imm ra rt pr s
  | .sllE brk rb ra rt pr => Sys2Proof.Machine.execSllE brk rb ra rt pr s
  | .sllEi brk imm ra rt pr => Sys2Proof.Machine.execSllEi brk imm ra rt pr s
  | .srl brk rb ra rt pr => Sys2Proof.Machine.execSrl brk rb ra rt pr s
  | .srli brk imm ra rt pr => Sys2Proof.Machine.execSrli brk imm ra rt pr s
  | .srlE brk rb ra rt pr => Sys2Proof.Machine.execSrlE brk rb ra rt pr s
  | .srlEi brk imm ra rt pr => Sys2Proof.Machine.execSrlEi brk imm ra rt pr s
  | .sra brk rb ra rt pr => Sys2Proof.Machine.execSra brk rb ra rt pr s
  | .srai brk imm ra rt pr => Sys2Proof.Machine.execSrai brk imm ra rt pr s
  | .sraE brk rb ra rt pr => Sys2Proof.Machine.execSraE brk rb ra rt pr s
  | .sraEi brk imm ra rt pr => Sys2Proof.Machine.execSraEi brk imm ra rt pr s
  | .add brk rb ra rt pr => Sys2Proof.Machine.execAdd brk rb ra rt pr s
  | .sub brk rb ra rt pr => Sys2Proof.Machine.execSub brk rb ra rt pr s
  | .and brk rb ra rt pr => Sys2Proof.Machine.execAnd brk rb ra rt pr s
  | .or brk rb ra rt pr => Sys2Proof.Machine.execOr brk rb ra rt pr s
  | .xor brk rb ra rt pr => Sys2Proof.Machine.execXor brk rb ra rt pr s
  | .mulS brk rb ra rt pr => Sys2Proof.Machine.execMulS brk rb ra rt pr s
  | .mulU brk rb ra rt pr => Sys2Proof.Machine.execMulU brk rb ra rt pr s
  | .mulSu brk rb ra rt pr => Sys2Proof.Machine.execMulSu brk rb ra rt pr s
  | .mulOp4 brk rb ra rt pr => Sys2Proof.Machine.execMulOp4 brk rb ra rt pr s
  | .mulOp5 brk rb ra rt pr => Sys2Proof.Machine.execMulOp5 brk rb ra rt pr s
  | .mulOp6 brk rb ra rt pr => Sys2Proof.Machine.execMulOp6 brk rb ra rt pr s
  | .mulOp7 brk rb ra rt pr => Sys2Proof.Machine.execMulOp7 brk rb ra rt pr s
  | .jmr brk ra rt pr => Sys2Proof.Machine.execJmr brk ra rt pr s
  | .nand brk rb ra rt pr => Sys2Proof.Machine.execNand brk rb ra rt pr s
  | .nor brk rb ra rt pr => Sys2Proof.Machine.execNor brk rb ra rt pr s
  | .xnor brk rb ra rt pr => Sys2Proof.Machine.execXnor brk rb ra rt pr s
  | .set brk rel rb ra rt pr => Sys2Proof.Machine.execSet brk rel rb ra rt pr s
  | .setu brk rel rb ra rt pr => Sys2Proof.Machine.execSetu brk rel rb ra rt pr s
  | .fset brk op3 rb ra rt pr => Sys2Proof.Machine.execFset brk op3 rb ra rt pr s
  | .ldbx brk rb ra rt pr => Sys2Proof.Machine.execLdbx brk rb ra rt pr s
  | .ldbux brk rb ra rt pr => Sys2Proof.Machine.execLdbux brk rb ra rt pr s
  | .ldwx brk rb ra rt pr => Sys2Proof.Machine.execLdwx brk rb ra rt pr s
  | .ldwux brk rb ra rt pr => Sys2Proof.Machine.execLdwux brk rb ra rt pr s
  | .ldtx brk rb ra rt pr => Sys2Proof.Machine.execLdtx brk rb ra rt pr s
  | .ldtux brk rb ra rt pr => Sys2Proof.Machine.execLdtux brk rb ra rt pr s
  | .ldox brk rb ra rt pr => Sys2Proof.Machine.execLdox brk rb ra rt pr s
  | .ldoux brk rb ra rt pr => Sys2Proof.Machine.execLdoux brk rb ra rt pr s
  | .ldhx brk rb ra rt pr => Sys2Proof.Machine.execLdhx brk rb ra rt pr s
  | .ldhrx brk op3 rb ra rt pr => Sys2Proof.Machine.execLdhrx brk op3 rb ra rt pr s
  | .ldchk brk op3 rb ra rt pr => Sys2Proof.Machine.execLdchk brk op3 rb ra rt pr s
  | .stbx brk ra rs pr => Sys2Proof.Machine.execStbx brk ra rs pr s
  | .stwx brk ra rs pr => Sys2Proof.Machine.execStwx brk ra rs pr s
  | .sttx brk ra rs pr => Sys2Proof.Machine.execSttx brk ra rs pr s
  | .stox brk ra rs pr => Sys2Proof.Machine.execStox brk ra rs pr s
  | .sthx brk ra rs pr => Sys2Proof.Machine.execSthx brk ra rs pr s
  | .sthcx brk op3 rb ra rs pr => Sys2Proof.Machine.execSthcx brk op3 rb ra rs pr s
  | .reg brk rb ra rt pr => Sys2Proof.Machine.execReg brk rb ra rt pr s
  | .csr op2 m2 csr ra rt pr => Sys2Proof.Machine.execCsr op2 m2 csr ra rt pr s
  | .carry io7 io6 io5 io4 io3 io2 io1 io0 rt pr => Sys2Proof.Machine.execCarry io7 io6 io5 io4 io3 io2 io1 io0 rt pr s

end Sys2Proof.Machine
end

