-- ==== Sys2Proof/Machine/Group.lean ====
section
/-! DEFINITION. The checks on neighbouring words and on the accesses of an issue group (R202, R294 step 5, R326). -/

namespace Sys2Proof

/-- The instructions whose immediate constant prefixes extend, the constant prefixes among them (R253; log 9). -/
def Instr.mayUseConst : Instr → Bool
  | .addi .. | .subfi .. | .andi .. | .ori .. | .xori .. | .muli .. | .cmpi .. | .cmpui .. | .seti ..
  | .setui .. | .ldb .. | .ldbu .. | .ldw .. | .ldwu .. | .ldt .. | .ldtu .. | .ldo .. | .ldou .. | .ldh ..
  | .stb .. | .stw .. | .stt .. | .sto .. | .sth .. | .con4 .. | .con1 .. | .con2 .. | .con3 .. => true
  | .sys .. | .mod .. | .flt .. | .bnz .. | .bz .. | .bra .. | .bsr .. | .cmp .. | .cmpu .. | .fcmp ..
  | .cmp19 .. | .fcmpi .. | .cmpi23 .. | .fdp .. | .ffdp .. | .fseti .. | .ldhr .. | .sthc .. | .nop ..
  | .sll .. | .slli .. | .sllE .. | .sllEi .. | .srl .. | .srli .. | .srlE .. | .srlEi .. | .sra .. | .srai ..
  | .sraE .. | .sraEi .. | .add .. | .sub .. | .and .. | .or .. | .xor .. | .mulS .. | .mulU .. | .mulSu ..
  | .mulOp4 .. | .mulOp5 .. | .mulOp6 .. | .mulOp7 .. | .jmr .. | .nand .. | .nor .. | .xnor .. | .set ..
  | .setu .. | .fset .. | .ldbx .. | .ldbux .. | .ldwx .. | .ldwux .. | .ldtx .. | .ldtux .. | .ldox ..
  | .ldoux .. | .ldhx .. | .ldhrx .. | .ldchk .. | .stbx .. | .stwx .. | .sttx .. | .stox .. | .sthx ..
  | .sthcx .. | .reg .. | .csr .. | .carry .. => false

end Sys2Proof

namespace Sys2Proof.Machine

/-! ## What a word reads and writes, as its fields say -/

/-- The registers and predicates an instruction's fields name (R326 (a)), whether it is a branch, BSR or JMR (b), and
whether it is a prefix (e). -/
structure Footprint where
  regReads : List RegNum := []
  regWrites : List RegNum := []
  predReads : List PredNum := []
  predWrites : List PredNum := []
  branch : Bool := false
  isPrefix : Bool := false
deriving DecidableEq, Repr

/-- A word that no rule gives operands to. -/
def Footprint.empty : Footprint where

/-- Register reads and writes under a guard. -/
def Footprint.ofRegs (reads writes : List RegNum) (pr : PredNum) : Footprint where
  regReads := reads
  regWrites := writes
  predReads := [pr]

/-- A compare (R171 to R174), which writes Pt2 unless CMP_PT2 leaves it unwritten (D13). -/
def Footprint.ofCompare (target : CmpPt2) (reads : List RegNum) (pt1 pt2 : PredNum) (pr : PredNum) : Footprint where
  regReads := reads
  predReads := [pr]
  predWrites := if target = .unwritten then [pt1] else [pt1, pt2]

/-- A branch or jump under a guard. -/
def Footprint.ofBranch (reads writes : List RegNum) (pr : PredNum) : Footprint where
  regReads := reads
  regWrites := writes
  predReads := [pr]
  branch := true

/-- A branch that tests what bits 5..0 name (R196, R197, R203). -/
def Footprint.ofTest (test : BranchTest) (n : BitVec 6) : Footprint where
  regReads := if test = .gpr then [n] else []
  predReads := if test = .predicate then [n] else []
  branch := true

/-- A prefix; its target is the pair's (R326 (e)). -/
def Footprint.ofPrefix (reads writes : List RegNum) (pr : PredNum) : Footprint where
  regReads := reads
  regWrites := writes
  predReads := [pr]
  isPrefix := true

/-- The footprint of each instruction under a launch, by its rule. -/
def footprint (l : Launch) (i : Instr) : Footprint :=
  match i with
  | .sys _ _ => .empty
  | .mod _ _ => .empty
  | .flt _ _ => .empty
  | .addi _ _ ra rt pr => .ofRegs [ra] [rt] pr
  | .subfi _ _ ra rt pr => .ofRegs [ra] [rt] pr
  | .andi _ _ ra rt pr => .ofRegs [ra] [rt] pr
  | .ori _ _ ra rt pr => .ofRegs [ra] [rt] pr
  | .xori _ _ ra rt pr => .ofRegs [ra] [rt] pr
  | .muli _ _ ra rt pr => .ofRegs [ra] [rt] pr
  | .bnz _ _ pr => .ofTest l.branchTest pr
  | .bz _ _ pr => .ofTest l.branchTest pr
  | .bra _ _ => .ofTest l.branchTest 0
  | .bsr _ _ pr => .ofBranch [] [1] pr
  | .cmp _ _ pt2 pt1 rb ra pr => .ofCompare l.cmpPt2 [ra, rb] pt1 pt2 pr
  | .cmpu _ _ pt2 pt1 rb ra pr => .ofCompare l.cmpPt2 [ra, rb] pt1 pt2 pr
  | .fcmp _ _ _ _ _ _ _ => .empty
  | .cmp19 _ _ _ _ _ _ _ => .empty
  | .cmpi _ _ pt2 pt1 _ ra pr => .ofCompare l.cmpPt2 [ra] pt1 pt2 pr
  | .cmpui _ _ pt2 pt1 _ ra pr => .ofCompare l.cmpPt2 [ra] pt1 pt2 pr
  | .fcmpi _ _ _ _ _ _ _ => .empty
  | .cmpi23 _ _ _ _ _ _ _ => .empty
  | .fdp _ _ => .empty
  | .ffdp _ _ => .empty
  | .seti _ _ _ ra rt pr => .ofRegs [ra] [rt] pr
  | .setui _ _ _ ra rt pr => .ofRegs [ra] [rt] pr
  | .fseti _ _ _ _ _ _ => .empty
  | .ldb _ _ ra rt pr => .ofRegs [ra] [rt] pr
  | .ldbu _ _ ra rt pr => .ofRegs [ra] [rt] pr
  | .ldw _ _ ra rt pr => .ofRegs [ra] [rt] pr
  | .ldwu _ _ ra rt pr => .ofRegs [ra] [rt] pr
  | .ldt _ _ ra rt pr => .ofRegs [ra] [rt] pr
  | .ldtu _ _ ra rt pr => .ofRegs [ra] [rt] pr
  | .ldo _ _ ra rt pr => .ofRegs [ra] [rt] pr
  | .ldou _ _ ra rt pr => .ofRegs [ra] [rt] pr
  | .ldh _ _ ra rt pr => .ofRegs [ra] [rt] pr
  | .ldhr _ _ _ _ _ => .empty
  | .stb _ _ ra rs pr => .ofRegs [ra, rs] [] pr
  | .stw _ _ ra rs pr => .ofRegs [ra, rs] [] pr
  | .stt _ _ ra rs pr => .ofRegs [ra, rs] [] pr
  | .sto _ _ ra rs pr => .ofRegs [ra, rs] [] pr
  | .sth _ _ ra rs pr => .ofRegs [ra, rs] [] pr
  | .sthc _ _ _ _ _ => .empty
  | .con4 _ _ pr => .ofPrefix [] [] pr
  | .nop _ _ => .empty
  | .con1 _ _ pr => .ofPrefix [] [] pr
  | .con2 _ _ pr => .ofPrefix [] [] pr
  | .con3 _ _ pr => .ofPrefix [] [] pr
  | .sll _ rb ra rt pr => .ofRegs [ra, rb] [rt] pr
  | .slli _ _ ra rt pr => .ofRegs [ra] [rt] pr
  | .sllE _ rb ra rt pr => .ofRegs [ra, rb] [rt] pr
  | .sllEi _ _ ra rt pr => .ofRegs [ra] [rt] pr
  | .srl _ rb ra rt pr => .ofRegs [ra, rb] [rt] pr
  | .srli _ _ ra rt pr => .ofRegs [ra] [rt] pr
  | .srlE _ _ _ _ _ => .empty
  | .srlEi _ _ _ _ _ => .empty
  | .sra _ rb ra rt pr => .ofRegs [ra, rb] [rt] pr
  | .srai _ _ ra rt pr => .ofRegs [ra] [rt] pr
  | .sraE _ _ _ _ _ => .empty
  | .sraEi _ _ _ _ _ => .empty
  | .add _ rb ra rt pr => .ofRegs [ra, rb] [rt] pr
  | .sub _ rb ra rt pr => .ofRegs [ra, rb] [rt] pr
  | .and _ rb ra rt pr => .ofRegs [ra, rb] [rt] pr
  | .or _ rb ra rt pr => .ofRegs [ra, rb] [rt] pr
  | .xor _ rb ra rt pr => .ofRegs [ra, rb] [rt] pr
  | .mulS _ rb ra rt pr => .ofRegs [ra, rb] [rt] pr
  | .mulU _ rb ra rt pr => .ofRegs [ra, rb] [rt] pr
  | .mulSu _ rb ra rt pr => .ofRegs [ra, rb] [rt] pr
  | .mulOp4 _ rb ra rt pr => .ofRegs [ra, rb] [rt] pr
  | .mulOp5 _ rb ra rt pr => .ofRegs [ra, rb] [rt] pr
  | .mulOp6 _ rb ra rt pr => .ofRegs [ra, rb] [rt] pr
  | .mulOp7 _ rb ra rt pr => .ofRegs [ra, rb] [rt] pr
  | .jmr _ ra rt pr => .ofBranch [ra] [rt] pr
  | .nand _ rb ra rt pr => .ofRegs [ra, rb] [rt] pr
  | .nor _ rb ra rt pr => .ofRegs [ra, rb] [rt] pr
  | .xnor _ rb ra rt pr => .ofRegs [ra, rb] [rt] pr
  | .set _ _ rb ra rt pr => .ofRegs [ra, rb] [rt] pr
  | .setu _ _ rb ra rt pr => .ofRegs [ra, rb] [rt] pr
  | .fset _ _ _ _ _ _ => .empty
  | .ldbx _ rb ra rt pr => .ofRegs [ra, rb] [rt] pr
  | .ldbux _ rb ra rt pr => .ofRegs [ra, rb] [rt] pr
  | .ldwx _ rb ra rt pr => .ofRegs [ra, rb] [rt] pr
  | .ldwux _ rb ra rt pr => .ofRegs [ra, rb] [rt] pr
  | .ldtx _ rb ra rt pr => .ofRegs [ra, rb] [rt] pr
  | .ldtux _ rb ra rt pr => .ofRegs [ra, rb] [rt] pr
  | .ldox _ rb ra rt pr => .ofRegs [ra, rb] [rt] pr
  | .ldoux _ rb ra rt pr => .ofRegs [ra, rb] [rt] pr
  | .ldhx _ rb ra rt pr => .ofRegs [ra, rb] [rt] pr
  | .ldhrx _ _ _ _ _ _ => .empty
  | .ldchk _ _ _ _ _ _ => .empty
  | .stbx _ ra rs pr => .ofRegs [ra, rs] [] pr
  | .stwx _ ra rs pr => .ofRegs [ra, rs] [] pr
  | .sttx _ ra rs pr => .ofRegs [ra, rs] [] pr
  | .stox _ ra rs pr => .ofRegs [ra, rs] [] pr
  | .sthx _ ra rs pr => .ofRegs [ra, rs] [] pr
  | .sthcx _ _ _ _ _ _ => .empty
  | .reg _ rb ra rt pr => .ofPrefix [ra, rb] [rt] pr
  | .csr _ _ _ _ _ _ => .empty
  | .carry _ _ _ _ _ _ _ _ _ pr => .ofPrefix [] [] pr

/-- The addressing mode, size, store or load, and guard of the instructions that access memory (R57). -/
def memoryOperand (i : Instr) : Option (AddrMode × Nat × Bool × PredNum) :=
  match i with
  | .sys _ _ => none
  | .mod _ _ => none
  | .flt _ _ => none
  | .addi _ _ _ _ _ => none
  | .subfi _ _ _ _ _ => none
  | .andi _ _ _ _ _ => none
  | .ori _ _ _ _ _ => none
  | .xori _ _ _ _ _ => none
  | .muli _ _ _ _ _ => none
  | .bnz _ _ _ => none
  | .bz _ _ _ => none
  | .bra _ _ => none
  | .bsr _ _ _ => none
  | .cmp _ _ _ _ _ _ _ => none
  | .cmpu _ _ _ _ _ _ _ => none
  | .fcmp _ _ _ _ _ _ _ => none
  | .cmp19 _ _ _ _ _ _ _ => none
  | .cmpi _ _ _ _ _ _ _ => none
  | .cmpui _ _ _ _ _ _ _ => none
  | .fcmpi _ _ _ _ _ _ _ => none
  | .cmpi23 _ _ _ _ _ _ _ => none
  | .fdp _ _ => none
  | .ffdp _ _ => none
  | .seti _ _ _ _ _ _ => none
  | .setui _ _ _ _ _ _ => none
  | .fseti _ _ _ _ _ _ => none
  | .ldb _ imm ra _ pr => some (.immediate imm ra, 1, false, pr)
  | .ldbu _ imm ra _ pr => some (.immediate imm ra, 1, false, pr)
  | .ldw _ imm ra _ pr => some (.immediate imm ra, 2, false, pr)
  | .ldwu _ imm ra _ pr => some (.immediate imm ra, 2, false, pr)
  | .ldt _ imm ra _ pr => some (.immediate imm ra, 4, false, pr)
  | .ldtu _ imm ra _ pr => some (.immediate imm ra, 4, false, pr)
  | .ldo _ imm ra _ pr => some (.immediate imm ra, 8, false, pr)
  | .ldou _ imm ra _ pr => some (.immediate imm ra, 8, false, pr)
  | .ldh _ imm ra _ pr => some (.immediate imm ra, 16, false, pr)
  | .ldhr _ _ _ _ _ => none
  | .stb _ imm ra _ pr => some (.immediate imm ra, 1, true, pr)
  | .stw _ imm ra _ pr => some (.immediate imm ra, 2, true, pr)
  | .stt _ imm ra _ pr => some (.immediate imm ra, 4, true, pr)
  | .sto _ imm ra _ pr => some (.immediate imm ra, 8, true, pr)
  | .sth _ imm ra _ pr => some (.immediate imm ra, 16, true, pr)
  | .sthc _ _ _ _ _ => none
  | .con4 _ _ _ => none
  | .nop _ _ => none
  | .con1 _ _ _ => none
  | .con2 _ _ _ => none
  | .con3 _ _ _ => none
  | .sll _ _ _ _ _ => none
  | .slli _ _ _ _ _ => none
  | .sllE _ _ _ _ _ => none
  | .sllEi _ _ _ _ _ => none
  | .srl _ _ _ _ _ => none
  | .srli _ _ _ _ _ => none
  | .srlE _ _ _ _ _ => none
  | .srlEi _ _ _ _ _ => none
  | .sra _ _ _ _ _ => none
  | .srai _ _ _ _ _ => none
  | .sraE _ _ _ _ _ => none
  | .sraEi _ _ _ _ _ => none
  | .add _ _ _ _ _ => none
  | .sub _ _ _ _ _ => none
  | .and _ _ _ _ _ => none
  | .or _ _ _ _ _ => none
  | .xor _ _ _ _ _ => none
  | .mulS _ _ _ _ _ => none
  | .mulU _ _ _ _ _ => none
  | .mulSu _ _ _ _ _ => none
  | .mulOp4 _ _ _ _ _ => none
  | .mulOp5 _ _ _ _ _ => none
  | .mulOp6 _ _ _ _ _ => none
  | .mulOp7 _ _ _ _ _ => none
  | .jmr _ _ _ _ => none
  | .nand _ _ _ _ _ => none
  | .nor _ _ _ _ _ => none
  | .xnor _ _ _ _ _ => none
  | .set _ _ _ _ _ _ => none
  | .setu _ _ _ _ _ _ => none
  | .fset _ _ _ _ _ _ => none
  | .ldbx _ rb ra _ pr => some (.indexed rb ra, 1, false, pr)
  | .ldbux _ rb ra _ pr => some (.indexed rb ra, 1, false, pr)
  | .ldwx _ rb ra _ pr => some (.indexed rb ra, 2, false, pr)
  | .ldwux _ rb ra _ pr => some (.indexed rb ra, 2, false, pr)
  | .ldtx _ rb ra _ pr => some (.indexed rb ra, 4, false, pr)
  | .ldtux _ rb ra _ pr => some (.indexed rb ra, 4, false, pr)
  | .ldox _ rb ra _ pr => some (.indexed rb ra, 8, false, pr)
  | .ldoux _ rb ra _ pr => some (.indexed rb ra, 8, false, pr)
  | .ldhx _ rb ra _ pr => some (.indexed rb ra, 16, false, pr)
  | .ldhrx _ _ _ _ _ _ => none
  | .ldchk _ _ _ _ _ _ => none
  | .stbx _ ra _ pr => some (.indexedByReg ra, 1, true, pr)
  | .stwx _ ra _ pr => some (.indexedByReg ra, 2, true, pr)
  | .sttx _ ra _ pr => some (.indexedByReg ra, 4, true, pr)
  | .stox _ ra _ pr => some (.indexedByReg ra, 8, true, pr)
  | .sthx _ ra _ pr => some (.indexedByReg ra, 16, true, pr)
  | .sthcx _ _ _ _ _ _ => none
  | .reg _ _ _ _ _ => none
  | .csr _ _ _ _ _ _ => none
  | .carry _ _ _ _ _ _ _ _ _ _ => none

/-! ## The group of an instruction -/

/-- The word in the five bytes at `a` (R66). -/
def State.wordAt (s : State) (a : Addr) : IWord :=
  wordOfBytes (s.byte a) (s.byte (a + 1)) (s.byte (a + 2)) (s.byte (a + 3)) (s.byte (a + 4))

/-- What the word at `a` spells under this launch. -/
def State.decodedAt (s : State) (a : Addr) : Decoded := decodeWith s.launch.layoutC (s.wordAt a)

/-- The footprint of the word at `a`; a word that spells no instruction has an empty one (log 14). -/
def State.footprintAt (s : State) (a : Addr) : Footprint :=
  match s.decodedAt a with
  | .ok i => footprint s.launch i
  | .illegal => .empty
  | .unusedBits => .empty
  | .truncated => .empty

/-- A break separates the instruction at `a` from the one at `a + 5` (R99, R326). -/
def State.breakBetween (s : State) (a : Addr) : Bool :=
  match s.launch.breakPolarity with
  | .after => brkOf (s.wordAt a)
  | .before => brkOf (s.wordAt (a + Config.ipStride))

/-- The footprints of the instructions before `a` in its group, the nearest first, at most `fuel` of them. -/
def State.earlierInGroup (s : State) : (fuel : Nat) → (a : Addr) → List Footprint
  | 0, _ => []
  | fuel + 1, a =>
    let p := a - Config.ipStride
    if s.launch.text.contains p && !s.breakBetween p then
      s.footprintAt p :: s.earlierInGroup fuel p
    else []

/-- Some number but those in `hardwired` stands in both lists (R326 (a): R0, P0 and P1 are excepted). -/
def sharesBut (hardwired xs ys : List (BitVec 6)) : Bool :=
  xs.any fun x => ys.contains x && !hardwired.contains x

/-- The later instruction reads or writes what the earlier one writes (R326 (a)). -/
def Footprint.dependsOn (later earlier : Footprint) : Bool :=
  sharesBut [0] earlier.regWrites (later.regReads ++ later.regWrites) ||
  sharesBut [0, 1] earlier.predWrites (later.predReads ++ later.predWrites)

/-- The instruction at the pc is the last of its group (R326 (b)). -/
def State.lastOfGroup (s : State) : Bool :=
  !s.launch.text.contains s.next || s.breakBetween s.pc

/-- Conditions (a), (b) and (e) of R326 fail at the instruction `i` at the pc. Its own prefixes, the nearest words
before it, count as one instruction with it. -/
def State.groupHazard (i : Instr) (s : State) : Bool :=
  let f := footprint s.launch i
  let earlier := s.earlierInGroup s.launch.text.length s.pc
  (f.branch && !s.lastOfGroup) || earlier.any (·.branch) ||
    (earlier.dropWhile (·.isPrefix)).any f.dependsOn

/-- The pc is the instruction after a prefix that was not executed just before it (R202, R250). -/
def State.jumpedOntoUser (s : State) : Bool :=
  s.pendReg.isNone && s.pendCon.isNone && s.launch.text.contains (s.pc - Config.ipStride) &&
    (s.footprintAt (s.pc - Config.ipStride)).isPrefix

/-! ## A prefix and its user -/

/-- The users of REG, each with how a REG before it must be filled (R145, R146, R150, R240, R258). -/
def regFits : Instr → Option (PendReg → Bool)
  | .mulS _ _ _ rt _ => some (fitsMul rt)
  | .mulU _ _ _ rt _ => some (fitsMul rt)
  | .mulSu _ _ _ rt _ => some (fitsMul rt)
  | .muli _ _ _ rt _ => some (fitsMul rt)
  | .mulOp4 _ _ _ rt _ => some (fitsDot rt)
  | .mulOp5 _ _ _ rt _ => some (fitsDot rt)
  | .mulOp6 _ _ _ rt _ => some (fitsDot rt)
  | .mulOp7 _ _ _ rt _ => some (fitsDot rt)
  | .sllE _ _ _ rt _ => some (fitsShift rt)
  | .sllEi _ _ _ rt _ => some (fitsShift rt)
  | .stbx _ _ _ _ => some fitsStore
  | .stwx _ _ _ _ => some fitsStore
  | .sttx _ _ _ _ => some fitsStore
  | .stox _ _ _ _ => some fitsStore
  | .sthx _ _ _ _ => some fitsStore
  | .sys .. | .mod .. | .flt .. | .addi .. | .subfi .. | .andi .. | .ori .. | .xori .. | .bnz .. | .bz ..
  | .bra .. | .bsr .. | .cmp .. | .cmpu .. | .fcmp .. | .cmp19 .. | .cmpi .. | .cmpui .. | .fcmpi ..
  | .cmpi23 .. | .fdp .. | .ffdp .. | .seti .. | .setui .. | .fseti .. | .ldb .. | .ldbu .. | .ldw ..
  | .ldwu .. | .ldt .. | .ldtu .. | .ldo .. | .ldou .. | .ldh .. | .ldhr .. | .stb .. | .stw .. | .stt ..
  | .sto .. | .sth .. | .sthc .. | .con4 .. | .nop .. | .con1 .. | .con2 .. | .con3 .. | .sll .. | .slli ..
  | .srl .. | .srli .. | .srlE .. | .srlEi .. | .sra .. | .srai .. | .sraE .. | .sraEi .. | .add .. | .sub ..
  | .and .. | .or .. | .xor .. | .jmr .. | .nand .. | .nor .. | .xnor .. | .set .. | .setu .. | .fset ..
  | .ldbx .. | .ldbux .. | .ldwx .. | .ldwux .. | .ldtx .. | .ldtux .. | .ldox .. | .ldoux .. | .ldhx ..
  | .ldhrx .. | .ldchk .. | .sthcx .. | .reg .. | .csr .. | .carry .. => none

/-- The instruction that the launch placed at `a` and that a run can reach: not at HALT_IP, where nothing is fetched
(R324), in populated bytes, and spelled by its word (R66). -/
def State.instructionAt (s : State) (a : Addr) : Option Instr :=
  if s.launch.haltIp = some a || !s.launch.text.contains a || (byteAddrs a 5).any fun b => !s.launch.populated b then none
  else
    match s.decodedAt a with
    | .ok j => some j
    | .illegal => none
    | .unusedBits => none
    | .truncated => none

/-- `j`, the word after the prefix `i`, carries its predicate, is not cut off from it, and can use it as it is filled
(R250, R253, R257, R258); nothing is asked of the word after an instruction that is no prefix. -/
def State.joins (s : State) (i j : Instr) : Bool :=
  let joined := i.guardField == j.guardField && !s.cutOff j.brk
  match i with
  | .reg _ rb ra rt pr => joined && (regFits j).any fun fits => fits ⟨ra, rb, rt, pr⟩
  | .con1 .. | .con2 .. | .con3 .. | .con4 .. => joined && j.mayUseConst
  | .sys .. | .mod .. | .flt .. | .addi .. | .subfi .. | .andi .. | .ori .. | .xori .. | .muli .. | .bnz ..
  | .bz .. | .bra .. | .bsr .. | .cmp .. | .cmpu .. | .fcmp .. | .cmp19 .. | .cmpi .. | .cmpui .. | .fcmpi ..
  | .cmpi23 .. | .fdp .. | .ffdp .. | .seti .. | .setui .. | .fseti .. | .ldb .. | .ldbu .. | .ldw ..
  | .ldwu .. | .ldt .. | .ldtu .. | .ldo .. | .ldou .. | .ldh .. | .ldhr .. | .stb .. | .stw .. | .stt ..
  | .sto .. | .sth .. | .sthc .. | .nop .. | .sll .. | .slli .. | .sllE .. | .sllEi .. | .srl .. | .srli ..
  | .srlE .. | .srlEi .. | .sra .. | .srai .. | .sraE .. | .sraEi .. | .add .. | .sub .. | .and .. | .or ..
  | .xor .. | .mulS .. | .mulU .. | .mulSu .. | .mulOp4 .. | .mulOp5 .. | .mulOp6 .. | .mulOp7 .. | .jmr ..
  | .nand .. | .nor .. | .xnor .. | .set .. | .setu .. | .fset .. | .ldbx .. | .ldbux .. | .ldwx .. | .ldwux ..
  | .ldtx .. | .ldtux .. | .ldox .. | .ldoux .. | .ldhx .. | .ldhrx .. | .ldchk .. | .stbx .. | .stwx ..
  | .sttx .. | .stox .. | .sthx .. | .sthcx .. | .csr .. | .carry .. => true

/-- A prefix at the pc with no user at `pc + 5` (R250, R291), be it that the run ends there (log 7). -/
def State.unfollowed (i : Instr) (s : State) : Bool :=
  (footprint s.launch i).isPrefix && !(s.instructionAt s.next).any (s.joins i)

/-! ## Accesses of a group (R326 (d)) -/

/-- The access that `i` makes in `s`, if its guard is true. -/
def State.accessOf (i : Instr) (s : State) : Option Access :=
  match memoryOperand i with
  | none => none
  | some (m, n, isStore, pr) => if s.pred pr then some ⟨m.address s, n, isStore⟩ else none

/-- Two accesses overlap in a byte and are not both loads (R326 (d)). -/
def Access.conflicts (x y : Access) : Bool :=
  (x.store || y.store) && (byteAddrs x.addr x.size).any fun a => (byteAddrs y.addr y.size).contains a

/-- The accesses already made by the group of `i`. -/
def State.openAccesses (i : Instr) (s : State) : List Access :=
  if s.cutOff i.brk then [] else s.groupAccesses

/-- The access of `i` conflicts with one that its group has made (R326 (d)). -/
def State.accessHazard (i : Instr) (s : State) : Bool :=
  match s.accessOf i with
  | none => false
  | some x => (s.openAccesses i).any x.conflicts

/-- The group's accesses after `i`: none if a break or a branch ends the group (R326; log 15). -/
def State.accessesAfter (i : Instr) (s : State) : List Access :=
  if s.cutsNext i.brk || (footprint s.launch i).branch then []
  else s.openAccesses i ++ (s.accessOf i).toList

/-! ## The order of the refusals -/

/-- The place of a refusal in the order of checks of R294. DEDUCED (log 13): R294 has no place for CarryModifier and
UndefinedCSR, which stand with NamedOnly and ConstantPrefix, as refusals of the opcode alone. -/
def Refusal.place (r : Refusal) : Nat :=
  match r with
  | .namedOnly _ => 30
  | .constantPrefix _ => 30
  | .carryModifier _ => 30
  | .undefinedCSR _ _ => 30
  | .unusedBitsSet _ _ => 40
  | .undefinedRelation _ => 40
  | .samePredicateTargets _ => 40
  | .extendedRightShift _ => 40
  | .danglingPrefix _ => 50
  | .missingRegPrefix _ => 51
  | .groupHazard _ => 52
  | .misaligned _ _ _ => 80
  | .outsideMemory _ _ => 80
  | .storeToText _ _ => 80
  | _ => 0

/-- The refusal `r`, unless what the instruction answers is a refusal that R294 checks before it. -/
def refuseUnlessEarlier (r : Refusal) (answer : Result) : Result :=
  match answer with
  | .next _ => .refused r
  | .fault f => .fault f
  | .refused r' => if r'.place ≤ r.place then .refused r' else .refused r

end Sys2Proof.Machine
end

