-- ==== Sys2Proof/Machine/Issue.lean ====
section
/-! DEFINITION. Fetching a word and running it: the checks of R294 around `exec`, and the end of a run. -/

namespace Sys2Proof.Machine

/-- The run has ended: the pc is HALT_IP (R324). -/
def State.ended (s : State) : Bool :=
  match s.launch.haltIp with
  | some h => s.pc == h
  | none => false

/-- Fetch (R66): the five bytes at the pc, if all are populated and the launch placed an instruction there. DESIGN CHOICE
(log 29): OutsideMemory reports the first unpopulated byte, or the pc where the bytes are populated and hold no instruction. -/
def State.fetch (s : State) : Except Refusal IWord :=
  match (byteAddrs s.pc 5).find? fun b => !s.launch.populated b with
  | some b => .error (.outsideMemory s.pc b)
  | none =>
    if s.launch.text.contains s.pc then .ok (s.wordAt s.pc) else .error (.outsideMemory s.pc s.pc)

/-- The instruction `i` has run: its access joins those of its group (R326 (d)). -/
def State.closeStep (i : Instr) (s t : State) : State :=
  { t with groupAccesses := s.accessesAfter i }

/-- `exec`, with the checks of neighbouring words, the one after a prefix among them, before it and of the group's accesses after it (R294, R326; log 13). -/
def runInstr (i : Instr) (s : State) : Result :=
  if s.jumpedOntoUser || s.unfollowed i then refuseUnlessEarlier (.danglingPrefix s.pc) (exec i s)
  else if s.groupHazard i then refuseUnlessEarlier (.groupHazard s.pc) (exec i s)
  else
    match exec i s with
    | .next t => if s.accessHazard i then .refused (.groupHazard s.pc) else .next (s.closeStep i t)
    | .fault f => .fault f
    | .refused r => .refused r

/-- A fetched word: no instruction (R96), a word with an unused bit set (R98), or an instruction to run. -/
def runWord (w : IWord) (s : State) : Result :=
  match decodeWith s.launch.layoutC w with
  | .ok i => runInstr i s
  | .illegal => .fault (.illegalInstruction s.pc w)
  | .unusedBits => .refused (.unusedBitsSet s.pc w)
  | .truncated => .fault (.illegalInstruction s.pc w)

/-- Fetch the word at the pc and run it. -/
def advance (s : State) : Result :=
  match s.fetch with
  | .error r => .refused r
  | .ok w => runWord w s

/-! ## A prefix and its user -/

/-- A prefix is pending: its user comes next (R34). -/
def State.awaitsUser (s : State) : Bool := s.pendReg.isSome || s.pendCon.isSome

/-- What stops the words that the pending prefix in `t` waits for, if anything does. The words of one chain lie at
different addresses of the program text, so its length bounds them. -/
def pairStop : (fuel : Nat) → State → Option Result
  | 0, t => if t.awaitsUser then some (.refused (.danglingPrefix t.pc)) else none
  | fuel + 1, t =>
    if t.awaitsUser then
      match advance t with
      | .next u => pairStop fuel u
      | .fault f => some (.fault f)
      | .refused r => some (.refused r)
    else none

/-- The answer of a step that left `t` behind: a prefix whose user stops answers that stop itself, so that the state of
the stop is the state before the prefix (R295; log 28). -/
def settlePair (t : State) : Result :=
  match pairStop t.launch.text.length t with
  | some stop => stop
  | none => .next t

/-! ## Placing words -/

/-- A user for a word that is a prefix, with its predicate: the dot product of R0 with R0 to R0 takes every REG, ADDI of R0
to R0 every constant prefix. An instruction that is no prefix has none (log 6). -/
def State.userFor (s : State) (d : Decoded) : Option IWord :=
  match d with
  | .ok i =>
    if (footprint s.launch i).isPrefix then
      ([Instr.mulOp4 false 0 0 0 i.guardField, .addi false 0 0 0 i.guardField].find? (s.joins i)).map encode
    else none
  | .illegal => none
  | .unusedBits => none
  | .truncated => none

/-- The addresses of `n` instructions from `a` on (R28). -/
def textFrom (a : Addr) (n : Nat) : List Addr :=
  (List.range n).map fun k => a + BitVec.ofNat 128 (5 * k)

/-- Memory with these words from `a` on, five bytes each (R66). -/
def storeWords (m : Memory) (a : Addr) : List IWord → Memory
  | [] => m
  | w :: ws => storeWords (storeBytes m a (w.setWidth 128) 5) (a + Config.ipStride) ws

end Sys2Proof.Machine
end

