-- ==== Sys2Proof/Machine/Step.lean ====
section
/-! DEFINITION. One step, and placing one word where the next step fetches it. -/

namespace Sys2Proof.Machine

/-- One step. A run that has ended stays in its end state (R324; log 7). -/
def step (s : State) : Host.Outcome State Fault Refusal :=
  if s.ended then .next s
  else
    match advance s with
    | .next t => settlePair t
    | .fault f => .fault f
    | .refused r => .refused r

/-- The launch of the one word `w` (its bits from `nbits` on zero) at the pc: the bytes of the word and of the user that it
needs behind it if it is a prefix, their addresses as the whole program text, their bytes populated, no HALT_IP on them, and
no group begun (log 6). -/
def State.withFetchWord (s : State) (nbits w : Nat) : State :=
  let word : IWord := BitVec.ofNat 40 (w % 2 ^ nbits)
  let words := word :: (s.userFor (decodeWith s.launch.layoutC word)).toList
  let text := textFrom s.pc words.length
  { s with
    mem := storeWords s.mem s.pc words
    groupAccesses := []
    launch :=
      { s.launch with
        text := text
        memValid := (((byteAddrs s.pc (5 * words.length)).filter fun b => !s.launch.populated b).map fun b =>
          ⟨b.toNat, 1⟩) ++ s.launch.memValid
        haltIp := s.launch.haltIp.filter fun h => !text.contains h } }

end Sys2Proof.Machine
end

