-- ==== Sys2Proof/Machine/DecFloat.lean ====
section
/-! DEFINITION. The 80-bit decimal floating-point datum, a data format that no described instruction computes with
(R270 to R280). The order of the declets and their code are the spec's decision D34. -/

namespace Sys2Proof.Machine

/-- An 80-bit datum (R270). -/
abbrev Float80 := BitVec 80

/-- The datum that a general register holds: bits 79..0; bits 127..80 are unconstrained (R278). -/
def floatOfReg (v : Word) : Float80 := v.extractLsb' 0 80

/-- Bit 79; one is positive (R270, R271). -/
def Float80.positive (f : Float80) : Bool := f.getLsbD 79

/-- Bits 78..70 (R270, R272). -/
def Float80.exponentField (f : Float80) : BitVec 9 := f.extractLsb' 70 9

/-- Bits 69..0 (R270, R273). -/
def Float80.significand (f : Float80) : BitVec 70 := f.extractLsb' 0 70

/-- The digit `8 + i`, written 100i. -/
def digitLarge (i : Bool) : Nat := 8 + i.toNat

/-- The digit written 0abc. -/
def digitSmall (a b c : Bool) : Nat := 4 * a.toNat + 2 * b.toNat + c.toNat

/-- The three digits of a declet, the most significant first (R274). -/
def decletDigits (d : BitVec 10) : Nat × Nat × Nat :=
  let b (k : Nat) : Bool := d.getLsbD k
  match b 3, b 2, b 1, b 6, b 5 with
  | false, _, _, _, _ =>
    (digitSmall (b 9) (b 8) (b 7), digitSmall (b 6) (b 5) (b 4), digitSmall (b 2) (b 1) (b 0))
  | true, false, false, _, _ => (digitSmall (b 9) (b 8) (b 7), digitSmall (b 6) (b 5) (b 4), digitLarge (b 0))
  | true, false, true, _, _ => (digitSmall (b 9) (b 8) (b 7), digitLarge (b 4), digitSmall (b 6) (b 5) (b 0))
  | true, true, false, _, _ => (digitLarge (b 7), digitSmall (b 6) (b 5) (b 4), digitSmall (b 9) (b 8) (b 0))
  | true, true, true, false, false => (digitLarge (b 7), digitLarge (b 4), digitSmall (b 9) (b 8) (b 0))
  | true, true, true, false, true => (digitLarge (b 7), digitSmall (b 9) (b 8) (b 4), digitLarge (b 0))
  | true, true, true, true, false => (digitSmall (b 9) (b 8) (b 7), digitLarge (b 4), digitLarge (b 0))
  | true, true, true, true, true => (digitLarge (b 7), digitLarge (b 4), digitLarge (b 0))

/-- The number 0 to 999 that a declet spells (R274). -/
def decletValue (d : BitVec 10) : Nat :=
  100 * (decletDigits d).1 + 10 * (decletDigits d).2.1 + (decletDigits d).2.2

/-- The integer of `n` declets of a significand, the least significant declet in its low bits (R273). -/
def decletsValue (m : BitVec 70) : Nat → Nat
  | 0 => 0
  | n + 1 => decletValue (m.extractLsb' (10 * n) 10) * 1000 ^ n + decletsValue m n

/-- D, the 21-digit integer of the significand's seven declets (R273). -/
def significandInteger (m : BitVec 70) : Nat := decletsValue m 7

/-- What a datum stands for (R275, R276, R277). -/
inductive FloatValue where
  /-- `(+1 if positive, else -1) * coefficient * 10 ^ exponent`, the exponent of the last digit. -/
  | finite (positive : Bool) (coefficient : Nat) (exponent : Int)
  | infinity (positive : Bool)
  | nan
deriving DecidableEq, Repr

/-- The value of a datum: the exponent field is biased by 255, and one digit stands before the point, so the last of the
21 digits weighs 10 ^ (e - 255 - 20) (R272, R273, R277). -/
def Float80.value (f : Float80) : FloatValue :=
  if f.exponentField = 511 then
    if f.significand = 0 then .infinity f.positive else .nan
  else .finite f.positive (significandInteger f.significand) ((f.exponentField.toNat : Int) - 255 - 20)

end Sys2Proof.Machine
end

