-- ==== Sys2Proof/Safety.lean ====
section
/-! DEFINITION. The words in which claims about the machine are stated: the invariant of its states, what an
instruction may find before it, and what it leaves behind, all through the reads of registers, predicates and bytes. -/

namespace Sys2Proof

/-- The relation of two integers that a compare or set names (R170); BC and BS relate no integers. -/
def Rel.onInts (r : Rel) (x y : Int) : Bool :=
  match r with
  | .lt => decide (x < y)
  | .ge => decide (x ≥ y)
  | .le => decide (x ≤ y)
  | .gt => decide (x > y)
  | .eq => decide (x = y)
  | .ne => decide (x ≠ y)
  | .bc => false
  | .bs => false

/-- The users of REG (R258). -/
def Instr.mayUseReg : Instr → Bool
  | .muli .. | .sllE .. | .sllEi .. | .mulS .. | .mulU .. | .mulSu .. | .mulOp4 .. | .mulOp5 .. | .mulOp6 ..
  | .mulOp7 .. | .stbx .. | .stwx .. | .sttx .. | .stox .. | .sthx .. => true
  | .sys .. | .mod .. | .flt .. | .addi .. | .subfi .. | .andi .. | .ori .. | .xori .. | .bnz .. | .bz ..
  | .bra .. | .bsr .. | .cmp .. | .cmpu .. | .fcmp .. | .cmp19 .. | .cmpi .. | .cmpui .. | .fcmpi ..
  | .cmpi23 .. | .fdp .. | .ffdp .. | .seti .. | .setui .. | .fseti .. | .ldb .. | .ldbu .. | .ldw ..
  | .ldwu .. | .ldt .. | .ldtu .. | .ldo .. | .ldou .. | .ldh .. | .ldhr .. | .stb .. | .stw .. | .stt ..
  | .sto .. | .sth .. | .sthc .. | .con4 .. | .nop .. | .con1 .. | .con2 .. | .con3 .. | .sll .. | .slli ..
  | .srl .. | .srli .. | .srlE .. | .srlEi .. | .sra .. | .srai .. | .sraE .. | .sraEi .. | .add .. | .sub ..
  | .and .. | .or .. | .xor .. | .jmr .. | .nand .. | .nor .. | .xnor .. | .set .. | .setu .. | .fset ..
  | .ldbx .. | .ldbux .. | .ldwx .. | .ldwux .. | .ldtx .. | .ldtux .. | .ldox .. | .ldoux .. | .ldhx ..
  | .ldhrx .. | .ldchk .. | .sthcx .. | .reg .. | .csr .. | .carry .. => false

/-- The compares to predicates (R171 to R174). -/
def Instr.isCompare : Instr → Bool
  | .cmp .. | .cmpu .. | .cmpi .. | .cmpui .. => true
  | .sys .. | .mod .. | .flt .. | .addi .. | .subfi .. | .andi .. | .ori .. | .xori .. | .muli .. | .bnz ..
  | .bz .. | .bra .. | .bsr .. | .fcmp .. | .cmp19 .. | .fcmpi .. | .cmpi23 .. | .fdp .. | .ffdp .. | .seti ..
  | .setui .. | .fseti .. | .ldb .. | .ldbu .. | .ldw .. | .ldwu .. | .ldt .. | .ldtu .. | .ldo .. | .ldou ..
  | .ldh .. | .ldhr .. | .stb .. | .stw .. | .stt .. | .sto .. | .sth .. | .sthc .. | .con4 .. | .nop ..
  | .con1 .. | .con2 .. | .con3 .. | .sll .. | .slli .. | .sllE .. | .sllEi .. | .srl .. | .srli .. | .srlE ..
  | .srlEi .. | .sra .. | .srai .. | .sraE .. | .sraEi .. | .add .. | .sub .. | .and .. | .or .. | .xor ..
  | .mulS .. | .mulU .. | .mulSu .. | .mulOp4 .. | .mulOp5 .. | .mulOp6 .. | .mulOp7 .. | .jmr .. | .nand ..
  | .nor .. | .xnor .. | .set .. | .setu .. | .fset .. | .ldbx .. | .ldbux .. | .ldwx .. | .ldwux .. | .ldtx ..
  | .ldtux .. | .ldox .. | .ldoux .. | .ldhx .. | .ldhrx .. | .ldchk .. | .stbx .. | .stwx .. | .sttx ..
  | .stox .. | .sthx .. | .sthcx .. | .reg .. | .csr .. | .carry .. => false

/-- The prefixes that Layout A encodes (R100). -/
def Instr.isPrefixWord : Instr → Bool
  | .con4 .. | .con1 .. | .con2 .. | .con3 .. | .reg .. => true
  | .sys .. | .mod .. | .flt .. | .addi .. | .subfi .. | .andi .. | .ori .. | .xori .. | .muli .. | .bnz ..
  | .bz .. | .bra .. | .bsr .. | .cmp .. | .cmpu .. | .fcmp .. | .cmp19 .. | .cmpi .. | .cmpui .. | .fcmpi ..
  | .cmpi23 .. | .fdp .. | .ffdp .. | .seti .. | .setui .. | .fseti .. | .ldb .. | .ldbu .. | .ldw ..
  | .ldwu .. | .ldt .. | .ldtu .. | .ldo .. | .ldou .. | .ldh .. | .ldhr .. | .stb .. | .stw .. | .stt ..
  | .sto .. | .sth .. | .sthc .. | .nop .. | .sll .. | .slli .. | .sllE .. | .sllEi .. | .srl .. | .srli ..
  | .srlE .. | .srlEi .. | .sra .. | .srai .. | .sraE .. | .sraEi .. | .add .. | .sub .. | .and .. | .or ..
  | .xor .. | .mulS .. | .mulU .. | .mulSu .. | .mulOp4 .. | .mulOp5 .. | .mulOp6 .. | .mulOp7 .. | .jmr ..
  | .nand .. | .nor .. | .xnor .. | .set .. | .setu .. | .fset .. | .ldbx .. | .ldbux .. | .ldwx .. | .ldwux ..
  | .ldtx .. | .ldtux .. | .ldox .. | .ldoux .. | .ldhx .. | .ldhrx .. | .ldchk .. | .stbx .. | .stwx ..
  | .sttx .. | .stox .. | .sthx .. | .sthcx .. | .csr .. | .carry .. => false

/-- The instructions that test what bits 5..0 name, instead of being guarded by it (R196 to R198, R203). -/
def Instr.testsField : Instr → Bool
  | .bnz .. | .bz .. | .bra .. => true
  | .sys .. | .mod .. | .flt .. | .addi .. | .subfi .. | .andi .. | .ori .. | .xori .. | .muli .. | .bsr ..
  | .cmp .. | .cmpu .. | .fcmp .. | .cmp19 .. | .cmpi .. | .cmpui .. | .fcmpi .. | .cmpi23 .. | .fdp ..
  | .ffdp .. | .seti .. | .setui .. | .fseti .. | .ldb .. | .ldbu .. | .ldw .. | .ldwu .. | .ldt .. | .ldtu ..
  | .ldo .. | .ldou .. | .ldh .. | .ldhr .. | .stb .. | .stw .. | .stt .. | .sto .. | .sth .. | .sthc ..
  | .con4 .. | .nop .. | .con1 .. | .con2 .. | .con3 .. | .sll .. | .slli .. | .sllE .. | .sllEi .. | .srl ..
  | .srli .. | .srlE .. | .srlEi .. | .sra .. | .srai .. | .sraE .. | .sraEi .. | .add .. | .sub .. | .and ..
  | .or .. | .xor .. | .mulS .. | .mulU .. | .mulSu .. | .mulOp4 .. | .mulOp5 .. | .mulOp6 .. | .mulOp7 ..
  | .jmr .. | .nand .. | .nor .. | .xnor .. | .set .. | .setu .. | .fset .. | .ldbx .. | .ldbux .. | .ldwx ..
  | .ldwux .. | .ldtx .. | .ldtux .. | .ldox .. | .ldoux .. | .ldhx .. | .ldhrx .. | .ldchk .. | .stbx ..
  | .stwx .. | .sttx .. | .stox .. | .sthx .. | .sthcx .. | .reg .. | .csr .. | .carry .. => false

end Sys2Proof

namespace Sys2Proof.Machine

/-- What every step keeps: memory is in its canonical form; the entries behind R0, P0 and P1 hold the hard-wired values;
no CARRY is pending; a REG and a constant prefix are never pending together, and no constant prefix is pending when CON_A
refuses. -/
structure State.Inv (s : State) : Prop where
  memory : s.mem.wf
  regZero : s.regs[0] = 0
  predFalse : s.preds[0] = false
  predTrue : s.preds[1] = true
  carry : s.pendCarry = none
  onePrefix : s.pendReg = none ∨ s.pendCon = none
  conRefused : s.launch.conA = .refuse → s.pendCon = none

/-- No prefix is pending. -/
def State.NoPrefix (s : State) : Prop := s.pendReg = none ∧ s.pendCon = none

/-- An instruction guarded by `pr` executes, with no prefix before it. -/
def State.Ready (s : State) (pr : PredNum) : Prop := s.NoPrefix ∧ s.pred pr = true

/-- An instruction guarded by `pr` executes with the REG `p` before it, in a launch that reads B as the spec's default
does, or with B = 0. -/
def State.ReadyWith (s : State) (brk : Bool) (pr : PredNum) (p : PendReg) : Prop :=
  s.pendReg = some p ∧ s.pendCon = none ∧ p.pr = pr ∧ s.pred pr = true ∧ s.cutOff brk = false

/-- The register reads after a write of `v` to `rt`: R0 keeps reading as zero (R21). -/
def regsWith (f : RegNum → Word) (rt : RegNum) (v : Word) (r : RegNum) : Word :=
  if r = 0 then 0 else if r = rt then v else f r

/-- The predicate reads after a write of `b` to `pt`: P0 and P1 keep their values (R25). -/
def predsWith (f : PredNum → Bool) (pt : PredNum) (b : Bool) (p : PredNum) : Bool :=
  if p = 0 then false else if p = 1 then true else if p = pt then b else f p

/-- The byte reads after a store of the low `n` bytes of `v` at `a`, the least significant first (R53, R56). -/
def bytesWith (f : Addr → Byte) (a : Addr) (n : Nat) (v : Word) (x : Addr) : Byte :=
  if (x - a).toNat < n then v.extractLsb' (8 * (x - a).toNat) 8 else f x

/-- What an instruction left behind: where the next one is fetched, what every register, predicate and byte reads as, no
prefix pending, and everything else as it was. -/
structure Effect (s t : State) (pc : Addr) (regs : RegNum → Word) (preds : PredNum → Bool) (bytes : Addr → Byte) :
    Prop where
  pc : t.pc = pc
  regs : ∀ r, t.reg r = regs r
  preds : ∀ p, t.pred p = preds p
  bytes : ∀ a, t.byte a = bytes a
  pendReg : t.pendReg = none
  pendCon : t.pendCon = none
  pendCarry : t.pendCarry = s.pendCarry
  groupAccesses : t.groupAccesses = s.groupAccesses
  launch : t.launch = s.launch

/-- `i` completes in `s`, goes on at `pc` and leaves the given reads behind. -/
def Completes (i : Instr) (s : State) (pc : Addr) (regs : RegNum → Word) (preds : PredNum → Bool)
    (bytes : Addr → Byte) : Prop :=
  ∃ t, exec i s = .next t ∧ Effect s t pc regs preds bytes

/-- `i` completes in `s`, goes on at the next instruction, and changes register `rt` alone, to `v`. -/
def WritesReg (i : Instr) (s : State) (rt : RegNum) (v : Word) : Prop :=
  Completes i s s.next (regsWith s.reg rt v) s.pred s.byte

/-- `i` completes in `s`, goes on at the next instruction, and changes predicates `pt1` and `pt2` alone, `pt2` last. -/
def WritesPreds (i : Instr) (s : State) (pt1 : PredNum) (b1 : Bool) (pt2 : PredNum) (b2 : Bool) : Prop :=
  Completes i s s.next s.reg (predsWith (predsWith s.pred pt1 b1) pt2 b2) s.byte

/-- `i` completes in `s`, goes on at the next instruction, and changes the `n` bytes at `a` alone, to those of `v`. -/
def WritesBytes (i : Instr) (s : State) (a : Addr) (n : Nat) (v : Word) : Prop :=
  Completes i s s.next s.reg s.pred (bytesWith s.byte a n v)

/-- `i` completes in `s` with no effect but that the next instruction is fetched from `pc`. -/
def OnlyGoesTo (i : Instr) (s : State) (pc : Addr) : Prop :=
  Completes i s pc s.reg s.pred s.byte

/-- The number that bytes spell, the first the least significant (R53). -/
def littleEndian : List Byte → Nat
  | [] => 0
  | b :: bs => b.toNat + 256 * littleEndian bs

/-- A data access of `n` bytes at `a` is admitted (R51, R54). -/
def State.MayRead (s : State) (a : Addr) (n : Nat) : Prop :=
  (s.launch.misaligned = .refuse → a.toNat % n = 0) ∧ ∀ i < n, s.launch.populated (a + BitVec.ofNat 128 i) = true

/-- A store of `n` bytes at `a` is admitted (R51, R54, R64). -/
def State.MayWrite (s : State) (a : Addr) (n : Nat) : Prop :=
  s.MayRead a n ∧ ∀ i < n, s.launch.inText (a + BitVec.ofNat 128 i) = false

/-- An instruction with an immediate, guarded by `pr`, executes: no REG is before it, and the constant prefixes before it,
if any, share its predicate and are not cut off from it. -/
def State.ReadyForConst (s : State) (brk : Bool) (pr : PredNum) : Prop :=
  s.pendReg = none ∧ (∀ p, s.pendCon = some p → p.pr = pr ∧ s.cutOff brk = false) ∧ s.pred pr = true

/-- An instruction guarded by `pr` that accesses memory in this mode has the prefix it needs before it, no other: constant
prefixes or none, none, or a REG that only names an index. -/
def State.PairedFor (s : State) (brk : Bool) (pr : PredNum) (m : AddrMode) : Prop :=
  match m with
  | .immediate _ _ => s.pendReg = none ∧ ∀ p, s.pendCon = some p → p.pr = pr ∧ s.cutOff brk = false
  | .indexed _ _ => s.NoPrefix
  | .indexedByReg _ =>
    s.pendCon = none ∧ ∃ p, s.pendReg = some p ∧ p.pr = pr ∧ s.cutOff brk = false ∧ p.rb = 0 ∧ p.rt = 0

/-- Such an instruction executes. -/
def State.ReadyFor (s : State) (brk : Bool) (pr : PredNum) (m : AddrMode) : Prop :=
  s.PairedFor brk pr m ∧ s.pred pr = true

/-- The `n` bytes at `a`, the first first. -/
def State.bytesAt (s : State) (a : Addr) (n : Nat) : List Byte := (byteAddrs a n).map s.byte

/-- What a load of `n` bytes at `a` leaves in its target: the number the bytes spell, or that number read as signed. -/
def State.loaded (s : State) (e : Ext) (n : Nat) (a : Addr) : Word :=
  match e with
  | .sign => BitVec.ofInt 128 (Int.bmod (littleEndian (s.bytesAt a n)) (2 ^ (8 * n)))
  | .zero => BitVec.ofNat 128 (littleEndian (s.bytesAt a n))

/-- The run goes on, and no check of a neighbouring word or of the group's accesses stops the instruction `i`. -/
def State.Issues (s : State) (i : Instr) : Prop :=
  s.ended = false ∧ s.jumpedOntoUser = false ∧ s.unfollowed i = false ∧ s.groupHazard i = false ∧ s.accessHazard i = false

/-- What stops the prefixes pending in `t` and their user, if anything does (R295). -/
def State.stopBeforeUser (t : State) : Option Result := pairStop t.launch.text.length t

/-- The step at `s` fetches: the run goes on, the five bytes at the pc are populated, and the launch placed an instruction
there (R66, R324). -/
def State.Fetches (s : State) : Prop :=
  s.ended = false ∧ (∀ k < 5, s.launch.populated (s.pc + BitVec.ofNat 128 k) = true) ∧ s.pc ∈ s.launch.text

/-- The address `k` instructions before the pc. -/
def State.back (s : State) (k : Nat) : Addr := s.pc - BitVec.ofNat 128 (5 * k)

/-- The address `a` plus `n` bytes, modulo 2^128. -/
def moved (a : Addr) (n : Int) : Addr := BitVec.ofInt 128 (a.toNat + n)

/-- The word whose bit k is `f k` for every k below 128 is written to `rt`, and nothing else changes. -/
def WritesBits (i : Instr) (s : State) (rt : RegNum) (f : Nat → Bool) : Prop :=
  ∃ v : Word, WritesReg i s rt v ∧ ∀ k < 128, v.getLsbD k = f k

/-- The instruction writes the low 128 bits of the integer `x` to `rt`, then the next 128 bits (x divided by 2^128, rounded
down, modulo 2^128) to `rt2`, and changes nothing else. -/
def WritesWide (i : Instr) (s : State) (rt rt2 : RegNum) (x : Int) : Prop :=
  Completes i s s.next
    (regsWith (regsWith s.reg rt (BitVec.ofInt 128 x)) rt2 (BitVec.ofInt 128 (x / 2 ^ 128))) s.pred s.byte

/-- The major opcodes that the map names and nothing describes, with their mnemonics (R281). -/
def namedMajors : List (Nat × String) :=
  [(0, "SYS"), (1, "MOD"), (3, "FLT"), (18, "FCMP"), (19, "CMP@19"), (22, "FCMPI"), (23, "CMPI@23"), (24, "FDP"),
    (25, "FFDP"), (30, "FSETI"), (43, "LDHR"), (54, "STHC")]

/-- The opcode-2 functions that the map names and nothing describes, with their mnemonics (R281). -/
def namedFunctions : List (Nat × String) :=
  [(30, "FSET"), (43, "LDHRX"), (47, "LDCHK"), (54, "STHCX")]

end Sys2Proof.Machine
end

