-- ==== Sys2Proof/Certificates/Slice0/Obligations.lean ====
section
/-! DEFINITION. The statements for the provers. Each docstring says which rules of the spec it formalises. -/

open Sys2Proof Sys2Proof.Machine

/-! ## Encoding -/

/-- Decoding the word of any instruction that has a Layout A word of its own gives the instruction back (R82 to R91, R101);
BRA's word is read as BZ P0 (R105, R198). -/
def Obligations.DecodeUndoesEncode : Prop :=
  (∀ i : Instr, i.inLayoutA = true → decode (encode i) = .ok i) ∧
    ∀ (brk : Bool) (disp : BitVec 27), decode (encode (.bra brk disp)) = .ok (.bz brk disp 0)

/-- A word that decodes is the word of the instruction it decodes to, so no two words spell one instruction and no bit of
a word is dropped (R101). -/
def Obligations.EncodeUndoesDecode : Prop :=
  ∀ (w : IWord) (i : Instr), decode w = .ok i → encode i = w ∧ i.inLayoutA = true

/-- The Layout C words: a model that decodes them reads CSR and CARRY back and refuses every one, and under Layout A every
CSR word is an ORI and every CARRY word is no instruction (R81, R103, R193, R252). Two points are the model's choices: that
a launch says whether they are decoded, and that they are then read before Layout A (log 18); and that the refusal comes
before every check of neighbouring words, whatever they and the pending prefix are, since R294 gives UndefinedCSR and
CarryModifier no place (log 13). -/
def Obligations.LayoutCWords : Prop :=
  (∀ (op2 m2 : BitVec 2) (csr : BitVec 10) (ra rt : BitVec 5) (pr : PredNum),
    let i : Instr := .csr op2 m2 csr ra rt pr
    decodeWith true (encode i) = .ok i ∧
    (∃ imm ra' rt', decodeWith false (encode i) = .ok (.ori false imm ra' rt' pr)) ∧
    ∀ s : State, exec i s = .refused (.undefinedCSR s.pc csr) ∧
      (s.launch.layoutC = true → runWord (encode i) s = .refused (.undefinedCSR s.pc csr))) ∧
  ∀ (io7 io6 io5 io4 io3 io2 io1 io0 : BitVec 2) (rt : BitVec 5) (pr : PredNum),
    let i : Instr := .carry io7 io6 io5 io4 io3 io2 io1 io0 rt pr
    decodeWith true (encode i) = .ok i ∧ decodeWith false (encode i) = .illegal ∧
    ∀ s : State, exec i s = .refused (.carryModifier s.pc) ∧
      (s.launch.layoutC = true → runWord (encode i) s = .refused (.carryModifier s.pc))

/-- The five bytes of a word, least significant first, are read back as the word, and the bytes after them are kept
(R53, R66). -/
def Obligations.WordBytesLittleEndian : Prop :=
  ∀ (w : IWord) (rest : List Byte),
    decodeBytes (bytesOfWord w ++ rest) = (decode w, rest) ∧ littleEndian (bytesOfWord w) = w.toNat

/-- Words printed in the rules' examples and the test vectors decode to the instructions printed beside them: one for each
format, A-R2, A-RI, A-SETI, A-CMP, A-CMPI, A-BR, A-CON and the shifts (R83 to R91), and a few more. -/
def Obligations.PrintedWordsDecode : Prop :=
  decode 0x84200810C1#40 = .ok (.add true 2 1 3 1) ∧
  decode 0x89FFFC10C1#40 = .ok (.addi true (-1) 1 3 1) ∧
  decode 0xB8001410C1#40 = .ok (.seti true .lt 5 1 3 1) ∧
  decode 0xA003082041#40 = .ok (.cmp true .lt 3 2 2 1 1) ∧
  decode 0xA84013F041#40 = .ok (.cmpi true .ge 0 4 (-1) 1 1) ∧
  decode 0x9BFFFFFC42#40 = .ok (.bnz true (-15) 2) ∧
  decode 0x8415FC10C1#40 = .ok (.srai true 127 1 3 1) ∧
  decode 0x8468004141#40 = .ok (.jmr true 4 5 1) ∧
  decode 0xC0004040C1#40 = .ok (.ldb true 16 4 3 1) ∧
  decode 0x85001440C1#40 = .ok (.ldbx true 5 4 3 1) ∧
  decode 0xE4004040C1#40 = .ok (.stt true 16 4 3 1) ∧
  decode 0x05F8144181#40 = .ok (.reg false 5 4 6 1) ∧
  decode 0x7A000048C1#40 = .ok (.con1 false 0x123 1) ∧
  decode 0xF800000001#40 = .ok (.nop true 1)

/-! ## Words without a meaning -/

/-- R96: a word with an unassigned major opcode, opcode-2 function or MUL Op3 raises IllegalInstruction with its address and
itself, whatever its guard, in a model that decodes Layout A alone. -/
def Obligations.UnassignedWordsFault : Prop :=
  ∀ (s : State) (w : IWord), s.launch.layoutC = false →
    (bits w 33 6).toNat ∈ [6, 7, 11, 26, 27, 31, 40, 41, 44, 45, 46, 47, 52, 55, 56, 57, 58] ∨
    ((bits w 33 6).toNat = 2 ∧
      (bits w 27 6).toNat ∈ [3, 6, 7, 11, 14, 15, 19, 20, 21, 22, 23, 24, 25, 26, 27, 31, 40, 41, 44, 45, 46, 52, 55, 56,
        57, 58, 59, 60, 61, 62]) ∨
    ((bits w 33 6).toNat = 2 ∧ (bits w 27 6).toNat = 12 ∧ (bits w 24 3).toNat = 3) →
    runWord w s = .fault (.illegalInstruction s.pc w)

/-- R98: an opcode-2 word with an unused bit set is refused: bits 26..24, but for MUL, SET, SETU, the shifts and the
named-only functions; bit 24 of a register-form shift; bits 23..18 of JMR and of the indexed stores. Bits 32..0 of NOP are
not checked. The encoder writes no unused bit. -/
def Obligations.UnusedBitsRefused : Prop :=
  (∀ (s : State) (w : IWord), (bits w 33 6).toNat = 2 →
    ((bits w 27 6).toNat ∈ [4, 5, 8, 9, 10, 13, 16, 17, 18, 32, 33, 34, 35, 36, 37, 38, 39, 42, 48, 49, 50, 51, 53, 63] ∧
        bits w 24 3 ≠ 0) ∨
      ((bits w 27 6).toNat ∈ [0, 1, 2] ∧ w.getLsbD 26 = false ∧ w.getLsbD 24 = true) ∨
      ((bits w 27 6).toNat ∈ [13, 48, 49, 50, 51, 53] ∧ bits w 18 6 ≠ 0) →
    runWord w s = .refused (.unusedBitsSet s.pc w)) ∧
  (∀ w : IWord, (bits w 33 6).toNat = 60 → decode w = .ok (.nop (w.getLsbD 39) (bits w 0 33))) ∧
  ∀ i : Instr, decode (encode i) ≠ .unusedBits

/-- R175, R176, R181, R246, R281: every word with an opcode that the maps name and nothing describes is refused by its
name, whatever its other bits, its guard and its neighbours; the all-zero word is one of them. -/
def Obligations.NamedOnlyWordsRefused : Prop :=
  ∀ (s : State) (w : IWord) (m : String),
    ((bits w 33 6).toNat, m) ∈ namedMajors ∨
      ((bits w 33 6).toNat = 2 ∧ ((bits w 27 6).toNat, m) ∈ namedFunctions) →
    runWord w s = .refused (.namedOnly m)

/-- R155: a word of SRL or SRA with bit 25 set, and no unused bit set, is refused, whatever its guard and its neighbours. -/
def Obligations.ExtendedRightShiftRefused : Prop :=
  ∀ (s : State) (w : IWord), (bits w 33 6).toNat = 2 → (bits w 27 6).toNat ∈ [1, 2] → w.getLsbD 25 = true →
    (w.getLsbD 26 = true ∨ w.getLsbD 24 = false) → runWord w s = .refused (.extendedRightShift s.pc)

/-- R182: a compare or set with relation BC or BS is refused, whatever its guard and its neighbours, unless BCBS admits it. -/
def Obligations.BitRelationsRefused : Prop :=
  ∀ (s : State) (i : Instr), s.launch.bcbs = .refuse → i.relationDefined = false →
    exec i s = .refused (.undefinedRelation s.pc) ∧ runInstr i s = .refused (.undefinedRelation s.pc)

/-- A compare whose two targets are one predicate above P1 is refused if its relation has a meaning (R171), whatever its
guard and under every CMP_PT2 (log 24). -/
def Obligations.SameTargetsRefused : Prop :=
  ∀ (s : State) (i : Instr) (p : PredNum), i.predTargets = some (p, p) → 1 < p.toNat →
    (i.relationDefined = true ∨ s.launch.bcbs = .bitTest) →
    exec i s = .refused (.samePredicateTargets s.pc) ∧ runInstr i s = .refused (.samePredicateTargets s.pc)

/-! ## Arithmetic and logic -/

/-- The constant of an immediate of n bits (n is 6, 12 or 15 in the formats): with no constant prefix, its value as a signed
number (R92); with constant prefixes admitted, a word whose low n bits are the immediate (the model's choice, log 9). -/
def Obligations.ConstantsKeepImmediate : Prop :=
  ∀ (s : State) (n : Nat) (imm : BitVec n), 0 < n → n ≤ 15 →
    (s.pendCon = none → (s.constant imm).toInt = imm.toInt) ∧ (s.constant imm).setWidth n = imm

/-- ADD, ADDI, SUB and SUBFI: the sum or difference of the signed operands, modulo 2^128, in Rt, and nothing else but the
step to the next instruction (R131 to R134, R156). -/
def Obligations.AddSubtract : Prop :=
  ∀ (s : State) (brk : Bool) (rb ra rt : RegNum) (pr : PredNum) (imm : BitVec 15),
    (s.Ready pr →
      WritesReg (.add brk rb ra rt pr) s rt (BitVec.ofInt 128 ((s.reg ra).toInt + (s.reg rb).toInt)) ∧
      WritesReg (.sub brk rb ra rt pr) s rt (BitVec.ofInt 128 ((s.reg ra).toInt - (s.reg rb).toInt))) ∧
    (s.ReadyForConst brk pr →
      WritesReg (.addi brk imm ra rt pr) s rt (BitVec.ofInt 128 ((s.reg ra).toInt + (s.constant imm).toInt)) ∧
      WritesReg (.subfi brk imm ra rt pr) s rt (BitVec.ofInt 128 ((s.constant imm).toInt - (s.reg ra).toInt)))

/-- AND, OR, XOR, NAND, NOR and XNOR act on all 128 bits of the two registers, ANDI, ORI and XORI on those of the register
and the constant, bit by bit (R135 to R143). -/
def Obligations.BitwiseLogic : Prop :=
  ∀ (s : State) (brk : Bool) (rb ra rt : RegNum) (pr : PredNum) (imm : BitVec 15),
    let a := (s.reg ra).getLsbD
    let b := (s.reg rb).getLsbD
    let c := (s.constant imm).getLsbD
    (s.Ready pr →
      WritesBits (.and brk rb ra rt pr) s rt (fun k => a k && b k) ∧
      WritesBits (.or brk rb ra rt pr) s rt (fun k => a k || b k) ∧
      WritesBits (.xor brk rb ra rt pr) s rt (fun k => a k != b k) ∧
      WritesBits (.nand brk rb ra rt pr) s rt (fun k => !(a k && b k)) ∧
      WritesBits (.nor brk rb ra rt pr) s rt (fun k => !(a k || b k)) ∧
      WritesBits (.xnor brk rb ra rt pr) s rt (fun k => a k == b k)) ∧
    (s.ReadyForConst brk pr →
      WritesBits (.andi brk imm ra rt pr) s rt (fun k => a k && c k) ∧
      WritesBits (.ori brk imm ra rt pr) s rt (fun k => a k || c k) ∧
      WritesBits (.xori brk imm ra rt pr) s rt (fun k => a k != c k))

/-- MUL.S, MUL.U, MUL.SU and MULI with no REG before them: the low 128 bits of the exact product, which are the same for
the three signs, in Rt (R144, R147). -/
def Obligations.MultiplyLow : Prop :=
  ∀ (s : State) (brk : Bool) (rb ra rt : RegNum) (pr : PredNum) (imm : BitVec 15),
    (s.Ready pr →
      let low := BitVec.ofNat 128 ((s.reg ra).toNat * (s.reg rb).toNat)
      WritesReg (.mulS brk rb ra rt pr) s rt low ∧ WritesReg (.mulU brk rb ra rt pr) s rt low ∧
        WritesReg (.mulSu brk rb ra rt pr) s rt low) ∧
    (s.ReadyForConst brk pr →
      WritesReg (.muli brk imm ra rt pr) s rt (BitVec.ofInt 128 ((s.reg ra).toInt * (s.constant imm).toInt)))

/-- A multiply with a REG before it that names R0 twice and a target that is R0 or differs from Rt: the low half of the
exact product in Rt, the high half in the REG's target, by the signs of the instruction (R145, R147). -/
def Obligations.MultiplyHigh : Prop :=
  ∀ (s : State) (brk : Bool) (rb ra rt : RegNum) (pr : PredNum) (imm : BitVec 15) (p : PendReg),
    s.ReadyWith brk pr p → p.ra = 0 → p.rb = 0 → (p.rt = 0 ∨ p.rt ≠ rt) →
    WritesWide (.mulS brk rb ra rt pr) s rt p.rt ((s.reg ra).toInt * (s.reg rb).toInt) ∧
    WritesWide (.mulU brk rb ra rt pr) s rt p.rt ((s.reg ra).toNat * (s.reg rb).toNat) ∧
    WritesWide (.mulSu brk rb ra rt pr) s rt p.rt ((s.reg ra).toInt * (s.reg rb).toNat) ∧
    WritesWide (.muli brk imm ra rt pr) s rt p.rt ((s.reg ra).toInt * imm.toInt)

/-- The four dot products of two signed pairs, the second pair from the REG, modulo 2^256: low half in Rt, high half in
the REG's target (R146). -/
def Obligations.DotProducts : Prop :=
  ∀ (s : State) (brk : Bool) (rb ra rt : RegNum) (pr : PredNum) (p : PendReg),
    s.ReadyWith brk pr p → (p.rt = 0 ∨ p.rt ≠ rt) →
    let ab := (s.reg ra).toInt * (s.reg rb).toInt
    let cd := (s.reg p.ra).toInt * (s.reg p.rb).toInt
    WritesWide (.mulOp4 brk rb ra rt pr) s rt p.rt (ab + cd) ∧
    WritesWide (.mulOp5 brk rb ra rt pr) s rt p.rt (-(ab + cd)) ∧
    WritesWide (.mulOp6 brk rb ra rt pr) s rt p.rt (ab - cd) ∧
    WritesWide (.mulOp7 brk rb ra rt pr) s rt p.rt (-(ab - cd))

/-- The shifts by n, the low seven bits of Rb or the immediate: left multiplies by 2^n, right divides by 2^n rounding down,
unsigned for SRL and signed for SRA (R148, R149, R151 to R154). -/
def Obligations.Shifts : Prop :=
  ∀ (s : State) (brk : Bool) (rb ra rt : RegNum) (pr : PredNum) (imm : BitVec 7), s.Ready pr →
    let n := (s.reg rb).toNat % 128
    let k := imm.toNat
    WritesReg (.sll brk rb ra rt pr) s rt (BitVec.ofNat 128 ((s.reg ra).toNat * 2 ^ n)) ∧
    WritesReg (.slli brk imm ra rt pr) s rt (BitVec.ofNat 128 ((s.reg ra).toNat * 2 ^ k)) ∧
    WritesReg (.srl brk rb ra rt pr) s rt (BitVec.ofNat 128 ((s.reg ra).toNat / 2 ^ n)) ∧
    WritesReg (.srli brk imm ra rt pr) s rt (BitVec.ofNat 128 ((s.reg ra).toNat / 2 ^ k)) ∧
    WritesReg (.sra brk rb ra rt pr) s rt (BitVec.ofInt 128 ((s.reg ra).toInt / 2 ^ n)) ∧
    WritesReg (.srai brk imm ra rt pr) s rt (BitVec.ofInt 128 ((s.reg ra).toInt / 2 ^ k))

/-- SLL with e = 1 by n: Rt receives Ra shifted left with the top n bits of the REG's first operand entering at the bottom,
the REG's target the n bits that left Ra at the top (R150). -/
def Obligations.ExtendedLeftShift : Prop :=
  ∀ (s : State) (brk : Bool) (rb ra rt : RegNum) (pr : PredNum) (imm : BitVec 7) (p : PendReg),
    s.ReadyWith brk pr p → p.rb = 0 → (p.rt = 0 ∨ p.rt ≠ rt) →
    let lo := fun n : Nat => BitVec.ofNat 128 ((s.reg ra).toNat * 2 ^ n + (s.reg p.ra).toNat / 2 ^ (128 - n))
    let hi := fun n : Nat => BitVec.ofNat 128 ((s.reg ra).toNat / 2 ^ (128 - n))
    let done := fun (i : Instr) (n : Nat) =>
      Completes i s s.next (regsWith (regsWith s.reg rt (lo n)) p.rt (hi n)) s.pred s.byte
    done (.sllE brk rb ra rt pr) ((s.reg rb).toNat % 128) ∧ done (.sllEi brk imm ra rt pr) imm.toNat

/-! ## Compares and sets -/

/-- A compare by one of the six explained relations, of the signed or unsigned values: Pt1 receives the relation, and Pt2
its complement, the relation, or nothing as CMP_PT2 says; P0 and P1 keep their values (R170 to R174). -/
def Obligations.Compares : Prop :=
  ∀ (s : State) (brk : Bool) (rel : Rel) (pt2 pt1 : PredNum) (rb ra : RegNum) (pr : PredNum) (imm : BitVec 6),
    rel ≠ .bc → rel ≠ .bs → ¬(pt1 = pt2 ∧ 1 < pt1.toNat) →
    let done := fun (i : Instr) (x y : Int) =>
      Completes i s s.next s.reg
        (match s.launch.cmpPt2 with
        | .complement => predsWith (predsWith s.pred pt1 (rel.onInts x y)) pt2 (!rel.onInts x y)
        | .same => predsWith (predsWith s.pred pt1 (rel.onInts x y)) pt2 (rel.onInts x y)
        | .unwritten => predsWith s.pred pt1 (rel.onInts x y)) s.byte
    (s.Ready pr →
      done (.cmp brk rel pt2 pt1 rb ra pr) (s.reg ra).toInt (s.reg rb).toInt ∧
      done (.cmpu brk rel pt2 pt1 rb ra pr) (s.reg ra).toNat (s.reg rb).toNat) ∧
    (s.ReadyForConst brk pr →
      done (.cmpi brk rel pt2 pt1 imm ra pr) (s.reg ra).toInt (s.constant imm).toInt ∧
      done (.cmpui brk rel pt2 pt1 imm ra pr) (s.reg ra).toNat (s.constant imm).toNat)

/-- A set by one of the six explained relations writes the number 1 or 0 to Rt and nothing else (R170, R177 to R180). -/
def Obligations.Sets : Prop :=
  ∀ (s : State) (brk : Bool) (rel : Rel) (rb ra rt : RegNum) (pr : PredNum) (imm : BitVec 12),
    rel ≠ .bc → rel ≠ .bs →
    let done := fun (i : Instr) (x y : Int) => WritesReg i s rt (BitVec.ofNat 128 (rel.onInts x y).toNat)
    (s.Ready pr →
      done (.set brk rel rb ra rt pr) (s.reg ra).toInt (s.reg rb).toInt ∧
      done (.setu brk rel rb ra rt pr) (s.reg ra).toNat (s.reg rb).toNat) ∧
    (s.ReadyForConst brk pr →
      done (.seti brk rel imm ra rt pr) (s.reg ra).toInt (s.constant imm).toInt ∧
      done (.setui brk rel imm ra rt pr) (s.reg ra).toNat (s.constant imm).toNat)

/-- Where BCBS admits them, BS tests bit b mod 128 of a and BC is its complement: the compares at the spec's CMP_PT2, and
the sets (R182, D14). -/
def Obligations.BitTestRelations : Prop :=
  ∀ (s : State) (brk : Bool) (pt2 pt1 : PredNum) (rb ra rt : RegNum) (pr : PredNum) (imm6 : BitVec 6) (imm12 : BitVec 12),
    s.launch.bcbs = .bitTest → s.launch.cmpPt2 = .complement → ¬(pt1 = pt2 ∧ 1 < pt1.toNat) →
    let bit := fun b : Word => (s.reg ra).getLsbD (b.toNat % 128)
    let one := fun b : Bool => BitVec.ofNat 128 b.toNat
    (s.Ready pr →
      let b := bit (s.reg rb)
      WritesPreds (.cmp brk .bs pt2 pt1 rb ra pr) s pt1 b pt2 (!b) ∧
      WritesPreds (.cmp brk .bc pt2 pt1 rb ra pr) s pt1 (!b) pt2 b ∧
      WritesPreds (.cmpu brk .bs pt2 pt1 rb ra pr) s pt1 b pt2 (!b) ∧
      WritesPreds (.cmpu brk .bc pt2 pt1 rb ra pr) s pt1 (!b) pt2 b ∧
      WritesReg (.set brk .bs rb ra rt pr) s rt (one b) ∧ WritesReg (.set brk .bc rb ra rt pr) s rt (one !b) ∧
      WritesReg (.setu brk .bs rb ra rt pr) s rt (one b) ∧ WritesReg (.setu brk .bc rb ra rt pr) s rt (one !b)) ∧
    (s.ReadyForConst brk pr →
      let b := bit (s.constant imm6)
      let c := bit (s.constant imm12)
      WritesPreds (.cmpi brk .bs pt2 pt1 imm6 ra pr) s pt1 b pt2 (!b) ∧
      WritesPreds (.cmpi brk .bc pt2 pt1 imm6 ra pr) s pt1 (!b) pt2 b ∧
      WritesPreds (.cmpui brk .bs pt2 pt1 imm6 ra pr) s pt1 b pt2 (!b) ∧
      WritesPreds (.cmpui brk .bc pt2 pt1 imm6 ra pr) s pt1 (!b) pt2 b ∧
      WritesReg (.seti brk .bs imm12 ra rt pr) s rt (one c) ∧ WritesReg (.seti brk .bc imm12 ra rt pr) s rt (one !c) ∧
      WritesReg (.setui brk .bs imm12 ra rt pr) s rt (one c) ∧ WritesReg (.setui brk .bc imm12 ra rt pr) s rt (one !c))

/-! ## Control flow -/

/-- BNZ, BZ and BRA: where the predicate named in bits 5..0 (P0 for BRA) is true for BNZ, false for the others, to their own
address plus the signed displacement in bytes, else to the next instruction; nothing else changes. Under BRANCH_TEST = gpr
the named general register is tested for non-zero (R195 to R198, R203). -/
def Obligations.Branches : Prop :=
  ∀ (s : State) (brk : Bool) (disp : BitVec 27) (pr : PredNum), s.NoPrefix →
    let target := moved s.pc disp.toInt
    let next := moved s.pc 5
    let test := match s.launch.branchTest with
      | .predicate => s.pred pr
      | .gpr => decide ((s.reg pr).toNat ≠ 0)
    OnlyGoesTo (.bnz brk disp pr) s (if test then target else next) ∧
      OnlyGoesTo (.bz brk disp pr) s (if test then next else target) ∧ OnlyGoesTo (.bra brk disp) s target

/-- BSR writes the address of the next instruction to R1 and goes to its own address plus the displacement; JMR goes to the
old value of Ra and writes the address of the next instruction to Rt, unless Rt is R0 (R36, R195, R199, R200). -/
def Obligations.CallsLink : Prop :=
  ∀ (s : State) (brk : Bool) (disp : BitVec 27) (ra rt : RegNum) (pr : PredNum), s.Ready pr →
    let next := moved s.pc 5
    Completes (.bsr brk disp pr) s (moved s.pc disp.toInt) (regsWith s.reg 1 next) s.pred s.byte ∧
    Completes (.jmr brk ra rt pr) s (s.reg ra) (regsWith s.reg rt next) s.pred s.byte

/-- NOP does nothing but go to the next instruction, whatever its bits 32..0 hold (R201). -/
def Obligations.NopDoesNothing : Prop :=
  ∀ (s : State) (brk : Bool) (ignored : BitVec 33), s.NoPrefix →
    OnlyGoesTo (.nop brk ignored) s (moved s.pc 5)

/-- R28: an instruction that is not a taken branch or jump goes to its own address plus 5, modulo 2^128: every instruction
but a branch, BSR or JMR; a branch whose test fails; a BSR or JMR whose guard is false. -/
def Obligations.AdvanceByFive : Prop :=
  ∀ (s t : State) (i : Instr), exec i s = .next t →
    ((footprint s.launch i).branch = false ∨
      (i.testsField = false ∧ s.pred i.guardField = false) ∨
      (∃ brk disp pr, i = .bnz brk disp pr ∧ s.branchNonZero pr = false) ∨
      (∃ brk disp pr, i = .bz brk disp pr ∧ s.branchNonZero pr = true)) →
    t.pc.toNat = (s.pc.toNat + 5) % 2 ^ 128

/-! ## Memory -/

/-- The loads, immediate form: Rt receives the bytes at Ra plus the constant, the first the least significant, sign- or
zero-extended by the mnemonic, and nothing else changes, for every access that MemValid and MISALIGNED admit (R52, R53,
R55, R57, R210 to R219). -/
def Obligations.LoadsImmediate : Prop :=
  ∀ (s : State) (brk : Bool) (imm : BitVec 15) (ra rt : RegNum) (pr : PredNum), s.ReadyForConst brk pr →
    let a := s.reg ra + s.constant imm
    (s.MayRead a 1 → WritesReg (.ldb brk imm ra rt pr) s rt (s.loaded .sign 1 a) ∧
      WritesReg (.ldbu brk imm ra rt pr) s rt (s.loaded .zero 1 a)) ∧
    (s.MayRead a 2 → WritesReg (.ldw brk imm ra rt pr) s rt (s.loaded .sign 2 a) ∧
      WritesReg (.ldwu brk imm ra rt pr) s rt (s.loaded .zero 2 a)) ∧
    (s.MayRead a 4 → WritesReg (.ldt brk imm ra rt pr) s rt (s.loaded .sign 4 a) ∧
      WritesReg (.ldtu brk imm ra rt pr) s rt (s.loaded .zero 4 a)) ∧
    (s.MayRead a 8 → WritesReg (.ldo brk imm ra rt pr) s rt (s.loaded .sign 8 a) ∧
      WritesReg (.ldou brk imm ra rt pr) s rt (s.loaded .zero 8 a)) ∧
    (s.MayRead a 16 → WritesReg (.ldh brk imm ra rt pr) s rt (s.loaded .zero 16 a))

/-- The loads, register-indexed form: as the immediate form, at Ra plus Rb (R57, R210, R220 to R228). -/
def Obligations.LoadsIndexed : Prop :=
  ∀ (s : State) (brk : Bool) (rb ra rt : RegNum) (pr : PredNum), s.Ready pr →
    let a := s.reg ra + s.reg rb
    (s.MayRead a 1 → WritesReg (.ldbx brk rb ra rt pr) s rt (s.loaded .sign 1 a) ∧
      WritesReg (.ldbux brk rb ra rt pr) s rt (s.loaded .zero 1 a)) ∧
    (s.MayRead a 2 → WritesReg (.ldwx brk rb ra rt pr) s rt (s.loaded .sign 2 a) ∧
      WritesReg (.ldwux brk rb ra rt pr) s rt (s.loaded .zero 2 a)) ∧
    (s.MayRead a 4 → WritesReg (.ldtx brk rb ra rt pr) s rt (s.loaded .sign 4 a) ∧
      WritesReg (.ldtux brk rb ra rt pr) s rt (s.loaded .zero 4 a)) ∧
    (s.MayRead a 8 → WritesReg (.ldox brk rb ra rt pr) s rt (s.loaded .sign 8 a) ∧
      WritesReg (.ldoux brk rb ra rt pr) s rt (s.loaded .zero 8 a)) ∧
    (s.MayRead a 16 → WritesReg (.ldhx brk rb ra rt pr) s rt (s.loaded .zero 16 a))

/-- The stores, immediate form: the low bytes of Rs, the least significant first, at Ra plus the constant; every other byte,
every register and every predicate reads as before (R53, R56, R57, R210, R229 to R233). -/
def Obligations.StoresImmediate : Prop :=
  ∀ (s : State) (brk : Bool) (imm : BitVec 15) (ra rs : RegNum) (pr : PredNum), s.mem.wf → s.ReadyForConst brk pr →
    let a := s.reg ra + s.constant imm
    (s.MayWrite a 1 → WritesBytes (.stb brk imm ra rs pr) s a 1 (s.reg rs)) ∧
    (s.MayWrite a 2 → WritesBytes (.stw brk imm ra rs pr) s a 2 (s.reg rs)) ∧
    (s.MayWrite a 4 → WritesBytes (.stt brk imm ra rs pr) s a 4 (s.reg rs)) ∧
    (s.MayWrite a 8 → WritesBytes (.sto brk imm ra rs pr) s a 8 (s.reg rs)) ∧
    (s.MayWrite a 16 → WritesBytes (.sth brk imm ra rs pr) s a 16 (s.reg rs))

/-- The stores, register-indexed form: as the immediate form, at Ra plus the first operand of the REG before the store,
whose other fields are R0 (R240 to R245). -/
def Obligations.StoresIndexed : Prop :=
  ∀ (s : State) (brk : Bool) (ra rs : RegNum) (pr : PredNum) (p : PendReg), s.mem.wf → s.ReadyWith brk pr p →
    p.rb = 0 → p.rt = 0 →
    let a := s.reg ra + s.reg p.ra
    (s.MayWrite a 1 → WritesBytes (.stbx brk ra rs pr) s a 1 (s.reg rs)) ∧
    (s.MayWrite a 2 → WritesBytes (.stwx brk ra rs pr) s a 2 (s.reg rs)) ∧
    (s.MayWrite a 4 → WritesBytes (.sttx brk ra rs pr) s a 4 (s.reg rs)) ∧
    (s.MayWrite a 8 → WritesBytes (.stox brk ra rs pr) s a 8 (s.reg rs)) ∧
    (s.MayWrite a 16 → WritesBytes (.sthx brk ra rs pr) s a 16 (s.reg rs))

/-- R55: MemRead of 1, 2, 4, 8 or 16 bytes answers exactly when every byte is populated and, under MISALIGNED = refuse, the
address is aligned; it answers the number whose bits 8i+7 to 8i are the byte at the address plus i, modulo 2^128. -/
def Obligations.MemReadAdmitsAndReads : Prop :=
  ∀ (s : State) (a : Addr) (n : Nat), n ∈ [1, 2, 4, 8, 16] →
    (s.MayRead a n ↔ ∃ v, s.memRead a n = .ok v) ∧
    ∀ v, s.memRead a n = .ok v →
      v.toNat < 2 ^ (8 * n) ∧ ∀ i < n, v.extractLsb' (8 * i) 8 = s.byte (a + BitVec.ofNat 128 i)

/-- A write that MemWrite admits, read back: the value's low n bytes, as MemRead gives them; and any byte, wyde, tetra, octa
or hexi that lies inside it and may be read reads as its part of the value, the byte at the lowest address holding bits 7..0
(R53, R55, R56). -/
def Obligations.ReadBackWrite : Prop :=
  ∀ (s t : State) (a : Addr) (n : Nat) (v : Word), s.mem.wf → n ∈ [1, 2, 4, 8, 16] → s.memWrite a n v = .ok t →
    t.memRead a n = .ok (BitVec.ofNat 128 (v.toNat % 2 ^ (8 * n))) ∧
    (∀ i < n, t.memRead (a + BitVec.ofNat 128 i) 1 = .ok (BitVec.ofNat 128 (v.toNat / 2 ^ (8 * i) % 256))) ∧
    ∀ m ∈ [1, 2, 4, 8, 16], ∀ i, i + m ≤ n →
      (t.launch.misaligned = .split ∨ (a + BitVec.ofNat 128 i).toNat % m = 0) →
      t.memRead (a + BitVec.ofNat 128 i) m = .ok (BitVec.ofNat 128 (v.toNat / 2 ^ (8 * i) % 2 ^ (8 * m)))

/-- A load or store that would execute at a misaligned address is refused with the address and the size where MISALIGNED
refuses (R54, R294). -/
def Obligations.MisalignedRefused : Prop :=
  ∀ (s : State) (i : Instr) (m : AddrMode) (n : Nat) (isStore : Bool) (pr : PredNum),
    memoryOperand i = some (m, n, isStore, pr) → s.ReadyFor i.brk pr m → s.launch.misaligned = .refuse →
    (m.address s).toNat % n ≠ 0 → exec i s = .refused (.misaligned s.pc (m.address s) n)

/-- A load or store that would execute, aligned or under MISALIGNED = split, and touches an unpopulated address is refused
(R51, R55, R56, R294). That the refusal reports the first such address is the model's choice (log 29). -/
def Obligations.OutsideMemoryRefused : Prop :=
  ∀ (s : State) (i : Instr) (m : AddrMode) (n : Nat) (isStore : Bool) (pr : PredNum) (k : Nat),
    memoryOperand i = some (m, n, isStore, pr) → s.ReadyFor i.brk pr m →
    (s.launch.misaligned = .split ∨ (m.address s).toNat % n = 0) → k < n →
    (∀ j < k, s.launch.populated (m.address s + BitVec.ofNat 128 j) = true) →
    s.launch.populated (m.address s + BitVec.ofNat 128 k) = false →
    exec i s = .refused (.outsideMemory s.pc (m.address s + BitVec.ofNat 128 k))

/-- A store that would execute and overlaps an instruction of the launch is refused (R64). That the refusal reports the
first overlapped address is the model's choice (log 29). -/
def Obligations.StoreToTextRefused : Prop :=
  ∀ (s : State) (i : Instr) (m : AddrMode) (n : Nat) (pr : PredNum) (k : Nat),
    memoryOperand i = some (m, n, true, pr) → s.ReadyFor i.brk pr m → s.MayRead (m.address s) n → k < n →
    (∀ j < k, s.launch.inText (m.address s + BitVec.ofNat 128 j) = false) →
    s.launch.inText (m.address s + BitVec.ofNat 128 k) = true →
    exec i s = .refused (.storeToText s.pc (m.address s + BitVec.ofNat 128 k))

/-! ## The guard and the prefixes -/

/-- An instruction whose guard is false and that is not refused does nothing but go to the next instruction (R8). Left out
are the branches that test their predicate, and the prefixes, which become pending even so: that is the model's choice
(log 11). A load or store that has the prefix it needs, no other, and a false guard is never refused for its address. -/
def Obligations.FalseGuardSkips : Prop :=
  (∀ (s t : State) (i : Instr), exec i s = .next t → s.pred i.guardField = false → i.testsField = false →
    i.isPrefixWord = false → Effect s t s.next s.reg s.pred s.byte) ∧
  ∀ (s : State) (i : Instr) (m : AddrMode) (n : Nat) (isStore : Bool) (pr : PredNum),
    memoryOperand i = some (m, n, isStore, pr) → s.PairedFor i.brk pr m → s.pred pr = false →
    Completes i s s.next s.reg s.pred s.byte

/-- REG, with no prefix before it and no break after it, makes its fields and its predicate pending, whatever its predicate
says, and changes nothing else but the step to the next instruction (R34, R257; log 10, 11). -/
def Obligations.RegBecomesPending : Prop :=
  ∀ (s : State) (brk : Bool) (rb ra rt : RegNum) (pr : PredNum), s.NoPrefix →
    (brk = true → s.launch.breakPolarity = .before) →
    exec (.reg brk rb ra rt pr) s =
      .next { s with pc := moved s.pc 5, pendReg := some { ra := ra, rb := rb, rt := rt, pr := pr } }

/-- The constant prefixes are refused, whatever their guard and their neighbours, where CON_A refuses, as the spec's default
does (R255); where CON_A admits them (the model's choice, log 9) each adds its 27 bits to those pending before it. -/
def Obligations.ConstantPrefixes : Prop :=
  ∀ (s : State) (brk : Bool) (imm : BitVec 27) (pr : PredNum) (num : ConNum),
    let i : Instr := match num with
      | .con1 => .con1 brk imm pr
      | .con2 => .con2 brk imm pr
      | .con3 => .con3 brk imm pr
      | .con4 => .con4 brk imm pr
    (s.launch.conA = .refuse →
      exec i s = .refused (.constantPrefix s.pc) ∧ runInstr i s = .refused (.constantPrefix s.pc)) ∧
    (s.launch.conA = .free → (brk = true → s.launch.breakPolarity = .before) → s.pendReg = none →
      (s.pendCon = none →
        exec i s = .next { s with pc := moved s.pc 5, pendCon := some { chunks := [(num, imm)], pr := pr } }) ∧
      ∀ p, s.pendCon = some p → p.pr = pr → brk = false →
        exec i s = .next
          { s with pc := moved s.pc 5, pendCon := some { chunks := p.chunks ++ [(num, imm)], pr := pr } })

/-- An instruction that runs with a REG pending is a user of REG, with constant prefixes pending a user of those; it carries
the predicate of its prefix and no break cuts it off. Afterwards nothing is pending, unless it is a prefix itself (R34,
R250, R257, R258; for the constant prefixes log 9). And a step at a prefix that answers a next state has its user before it:
the run has not ended there, the next word is one that may use what is pending, under the same predicate, and the step at it
answers a next state too, so that a pair stops before its prefix or not at all (R250, R295; log 28). -/
def Obligations.PrefixMeetsItsUser : Prop :=
  (∀ (s t : State) (i : Instr), exec i s = .next t →
    (∀ p, s.pendReg = some p → i.mayUseReg = true ∧ p.pr = i.guardField ∧ s.cutOff i.brk = false) ∧
    (∀ p, s.pendCon = some p → i.mayUseConst = true ∧ p.pr = i.guardField ∧ s.cutOff i.brk = false) ∧
    (i.isPrefixWord = false → t.pendReg = none ∧ t.pendCon = none)) ∧
  ∀ (s t : State) (i : Instr), s.ended = false → s.decodedAt s.pc = .ok i → i.isPrefixWord = true → step s = .next t →
    t.ended = false ∧
    ∃ j u, t.decodedAt t.pc = .ok j ∧ j.guardField = i.guardField ∧ (t.pendReg = none ∨ j.mayUseReg = true) ∧
      (t.pendCon = none ∨ j.mayUseConst = true) ∧ step t = .next u

/-- A REG in front of an instruction that cannot use it, that carries another predicate, or whose fields the REG does not
fit (an unused operand that is not R0; a second target that is the first), stops the instruction, whatever its guard
(R145, R146, R150, R240, R250, R257). The step at a REG is refused as DanglingPrefix where the run ends behind it, no
instruction of the launch is behind it, or one that cannot use it or carries another predicate (R250, R291, R294, R324).
That this check is made at the REG and before every check of the word behind it, and that it reports the pc of the REG, is
the model's reading (log 7, 13, 29). -/
def Obligations.MisfitRegStops : Prop :=
  (∀ (s t : State) (i : Instr) (p : PendReg), s.pendReg = some p →
    (i.mayUseReg = false ∨ p.pr ≠ i.guardField ∨
      (∃ brk rb ra rt pr, (i = .mulS brk rb ra rt pr ∨ i = .mulU brk rb ra rt pr ∨ i = .mulSu brk rb ra rt pr) ∧
        (p.ra ≠ 0 ∨ p.rb ≠ 0 ∨ (p.rt = rt ∧ rt ≠ 0))) ∨
      (∃ brk imm ra rt pr, i = .muli brk imm ra rt pr ∧ (p.ra ≠ 0 ∨ p.rb ≠ 0 ∨ (p.rt = rt ∧ rt ≠ 0))) ∨
      (∃ brk rb ra rt pr, (i = .mulOp4 brk rb ra rt pr ∨ i = .mulOp5 brk rb ra rt pr ∨ i = .mulOp6 brk rb ra rt pr ∨
        i = .mulOp7 brk rb ra rt pr) ∧ p.rt = rt ∧ rt ≠ 0) ∨
      (∃ brk rb ra rt pr, i = .sllE brk rb ra rt pr ∧ (p.rb ≠ 0 ∨ (p.rt = rt ∧ rt ≠ 0))) ∨
      (∃ brk imm ra rt pr, i = .sllEi brk imm ra rt pr ∧ (p.rb ≠ 0 ∨ (p.rt = rt ∧ rt ≠ 0))) ∨
      (∃ brk ra rs pr, (i = .stbx brk ra rs pr ∨ i = .stwx brk ra rs pr ∨ i = .sttx brk ra rs pr ∨
        i = .stox brk ra rs pr ∨ i = .sthx brk ra rs pr) ∧ (p.rb ≠ 0 ∨ p.rt ≠ 0))) →
    exec i s ≠ .next t) ∧
  ∀ (s : State) (brk : Bool) (rb ra rt : RegNum) (pr : PredNum), s.Fetches → s.decodedAt s.pc = .ok (.reg brk rb ra rt pr) →
    (s.launch.haltIp = some (s.pc + 5) ∨ s.pc + 5 ∉ s.launch.text ∨
      (∃ k < 5, s.launch.populated (s.pc + 5 + BitVec.ofNat 128 k) = false) ∨ (∀ j, s.decodedAt (s.pc + 5) ≠ .ok j) ∨
      ∃ j, s.decodedAt (s.pc + 5) = .ok j ∧ (j.mayUseReg = false ∨ j.guardField ≠ pr)) →
    step s = .refused (.danglingPrefix s.pc)

/-- The dot products, the extended left shifts and the indexed stores with no prefix before them are refused, whatever
their guard (R146, R150, R240). -/
def Obligations.MissingRegRefused : Prop :=
  ∀ (s : State) (brk : Bool) (rb ra rt : RegNum) (pr : PredNum) (imm : BitVec 7), s.NoPrefix →
    ∀ i ∈ [Instr.mulOp4 brk rb ra rt pr, .mulOp5 brk rb ra rt pr, .mulOp6 brk rb ra rt pr, .mulOp7 brk rb ra rt pr,
      .sllE brk rb ra rt pr, .sllEi brk imm ra rt pr, .stbx brk ra rt pr, .stwx brk ra rt pr, .sttx brk ra rt pr,
      .stox brk ra rt pr, .sthx brk ra rt pr],
      exec i s = .refused (.missingRegPrefix s.pc)

/-! ## What every instruction keeps -/

/-- A register that an instruction changes is one that its word names as a target, or R1 for BSR, or the target of the REG
before a user of REG; never R0 (R21, R23). -/
def Obligations.OnlyTargetsWritten : Prop :=
  ∀ (s t : State) (i : Instr) (r : RegNum), exec i s = .next t → t.reg r ≠ s.reg r →
    r ≠ 0 ∧ (r ∈ (footprint s.launch i).regWrites ∨
      (i.mayUseReg = true ∧ ∃ p, s.pendReg = some p ∧ r = p.rt))

/-- Predicates are changed by the compares alone, only the two they name, never P0 or P1 (R25, R26). -/
def Obligations.OnlyComparesWritePredicates : Prop :=
  ∀ (s t : State) (i : Instr) (p : PredNum), exec i s = .next t → t.pred p ≠ s.pred p →
    i.isCompare = true ∧ p ≠ 0 ∧ p ≠ 1 ∧ ∃ q, i.predTargets = some (p, q) ∨ i.predTargets = some (q, p)

/-- A byte that an instruction changes lies in the bytes that a store, its guard true, stores to: those of its width at the
address it computes (R55, R56). -/
def Obligations.OnlyStoresWriteMemory : Prop :=
  ∀ (s t : State) (i : Instr) (x : Addr), s.mem.wf → exec i s = .next t → t.byte x ≠ s.byte x →
    ∃ m n pr, memoryOperand i = some (m, n, true, pr) ∧ s.pred pr = true ∧ (x - m.address s).toNat < n

/-- No instruction raises a fault: the architecture has no exception, and of the two model faults of R291 IllegalInstruction
belongs to words that spell no instruction (R96, R290), and UninitialisedRead is never raised by the model's choice, because
every register and predicate holds a value (log 1, 2). -/
def Obligations.NoInstructionFaults : Prop :=
  ∀ (s : State) (i : Instr) (f : Fault), exec i s ≠ .fault f

/-! ## The step -/

/-- A step at a state whose five bytes at the pc are populated, belong to an instruction of the launch and spell `i`, and
where no check of neighbouring words or of the group's accesses fails, is `exec i`, with the group's accesses brought up to
date after it; but where `i` is a prefix and its user stops, the step is that stop (R295; log 28). -/
def Obligations.StepRunsDecoded : Prop :=
  ∀ (s : State) (i : Instr), (∀ k < 5, s.launch.populated (s.pc + BitVec.ofNat 128 k) = true) →
    s.launch.text.contains s.pc = true →
    decodeWith s.launch.layoutC
      (wordOfBytes (s.byte s.pc) (s.byte (s.pc + 1)) (s.byte (s.pc + 2)) (s.byte (s.pc + 3)) (s.byte (s.pc + 4))) = .ok i →
    s.Issues i →
    (∀ t, exec i s = .next t →
      let u := { t with groupAccesses := s.accessesAfter i }
      (u.stopBeforeUser = none → step s = .next u) ∧ (∀ r, u.stopBeforeUser = some r → step s = r) ∧
        (i.isPrefixWord = false → u.stopBeforeUser = none)) ∧
    (∀ r, exec i s = .refused r → step s = .refused r) ∧ ∀ f, exec i s = .fault f → step s = .fault f

/-- A fetch that touches an unpopulated address, or an address from which the launch placed no instruction, is refused, and
nothing else is checked before it (R51, R66, R202, R294). That the refusal reports the first unpopulated address, or the pc
where no instruction was placed, is the model's choice (log 29). -/
def Obligations.FetchRefused : Prop :=
  ∀ s : State, s.ended = false →
    (∀ k, k < 5 → (∀ j < k, s.launch.populated (s.pc + BitVec.ofNat 128 j) = true) →
      s.launch.populated (s.pc + BitVec.ofNat 128 k) = false →
      step s = .refused (.outsideMemory s.pc (s.pc + BitVec.ofNat 128 k))) ∧
    ((∀ k < 5, s.launch.populated (s.pc + BitVec.ofNat 128 k) = true) → s.pc ∉ s.launch.text →
      step s = .refused (.outsideMemory s.pc s.pc))

/-- At HALT_IP nothing is fetched and the state is the end state: the model's step stays in it (R324; that the step answers
the same state is the model's choice, log 7). -/
def Obligations.RunEndsAtHaltIp : Prop :=
  ∀ s : State, s.launch.haltIp = some s.pc → step s = .next s

/-- The invariant of the machine: memory in its canonical form, the entries behind R0, P0 and P1 at their hard-wired values,
no CARRY pending, never a REG and constant prefixes pending together, no constant prefix pending where CON_A refuses. Every
step from every state that has it keeps it (R21, R25, R34, R252, R255). -/
def Obligations.StepKeepsInvariant : Prop :=
  ∀ s t : State, s.Inv → step s = .next t → t.Inv

/-- The invariant holds at reset, R0, P0 and P1 read as 0, 0 and 1, and no prefix is pending (R37, R320). -/
def Obligations.ResetHasInvariant : Prop :=
  State.reset.Inv ∧ State.reset.reg 0 = 0 ∧ State.reset.pred 0 = false ∧ State.reset.pred 1 = true ∧
    State.reset.pendCon = none ∧ State.reset.pendReg = none ∧ State.reset.pendCarry = none

/-- Every step keeps the launch, and every byte of the program text that the launch placed (R64, R322). -/
def Obligations.StepKeepsProgramText : Prop :=
  ∀ s t : State, s.Inv → step s = .next t →
    t.launch = s.launch ∧ ∀ a : Addr, s.launch.inText a = true → t.byte a = s.byte a

/-- R0 reads as zero and P0, P1 as false and true in every state, and writes to them are discarded (R7, R21, R25). -/
def Obligations.HardwiredRegisters : Prop :=
  ∀ (s : State) (v : Word) (b : Bool),
    s.reg 0 = 0 ∧ s.pred 0 = false ∧ s.pred 1 = true ∧ s.setReg 0 v = s ∧ s.setPred 0 b = s ∧ s.setPred 1 b = s

/-! ## Neighbouring words and issue groups -/

/-- A step onto the instruction after a REG, with no prefix pending (the REG was jumped over), answers no next state (R202,
R250). -/
def Obligations.JumpOntoUserStops : Prop :=
  ∀ (s t : State) (brk : Bool) (rb ra rt : RegNum) (pr : PredNum), s.NoPrefix → s.ended = false →
    s.pc - 5 ∈ s.launch.text → s.decodedAt (s.pc - 5) = .ok (.reg brk rb ra rt pr) → step s ≠ .next t

/-- R326 (a), (e): the instruction `j` at the pc may not read or write a general register above R0 or a predicate above P1
that the instruction `i`, k words before it and with no break from there on, writes: the step at `j` answers no next state.
A prefix `i` counts, with its fields, unless it belongs to `j` itself, that is unless all words from it on are prefixes. -/
def Obligations.GroupDependencyStops : Prop :=
  ∀ (s t : State) (i j : Instr) (k : Nat), s.ended = false → s.launch.breakPolarity = .after →
    1 ≤ k → k ≤ s.launch.text.length →
    (∀ m, 1 ≤ m → m ≤ k → s.back m ∈ s.launch.text ∧ (s.wordAt (s.back m)).getLsbD 39 = false) →
    (∃ m i', 1 ≤ m ∧ m ≤ k ∧ s.decodedAt (s.back m) = .ok i' ∧ (footprint s.launch i').isPrefix = false) →
    s.decodedAt (s.back k) = .ok i → s.decodedAt s.pc = .ok j →
    let f := footprint s.launch i
    let g := footprint s.launch j
    ((∃ r, r ≠ 0 ∧ r ∈ f.regWrites ∧ (r ∈ g.regReads ∨ r ∈ g.regWrites)) ∨
      ∃ p, p ≠ 0 ∧ p ≠ 1 ∧ p ∈ f.predWrites ∧ (p ∈ g.predReads ∨ p ∈ g.predWrites)) →
    step s ≠ .next t

/-- R326 (b): a branch, BSR or JMR with no break after it and another instruction of the launch behind it answers no next
state, and neither does an instruction with a branch right before it in its group. -/
def Obligations.GroupBranchIsLast : Prop :=
  ∀ (s t : State) (i : Instr), s.ended = false → s.launch.breakPolarity = .after →
    (footprint s.launch i).branch = true →
    (s.decodedAt s.pc = .ok i ∧ (s.wordAt s.pc).getLsbD 39 = false ∧ s.pc + 5 ∈ s.launch.text) ∨
      (s.decodedAt (s.pc - 5) = .ok i ∧ (s.wordAt (s.pc - 5)).getLsbD 39 = false ∧ s.pc - 5 ∈ s.launch.text) →
    step s ≠ .next t

/-- R326 (d), with the accesses of the group remembered in a field of the model's own (log 15): an access that overlaps in a
byte with one remembered, one of the two being a store, answers no next state. A step that answers a next state, with no
break after its instruction, which is no branch, remembers the access that the instruction makes under a true guard, and
keeps those remembered before. -/
def Obligations.GroupOverlapStops : Prop :=
  (∀ (s t : State) (i : Instr) (m : AddrMode) (n : Nat) (isStore : Bool) (pr : PredNum) (x : Access) (b : Addr),
    s.ended = false → s.launch.breakPolarity = .after → s.decodedAt s.pc = .ok i →
    memoryOperand i = some (m, n, isStore, pr) → s.pred pr = true → x ∈ s.groupAccesses → (x.store || isStore) = true →
    (b - x.addr).toNat < x.size → (b - m.address s).toNat < n → step s ≠ .next t) ∧
  ∀ (s u : State) (i : Instr), s.ended = false → s.launch.breakPolarity = .after → s.decodedAt s.pc = .ok i →
    i.brk = false → (footprint s.launch i).branch = false → step s = .next u →
    (∀ x ∈ s.groupAccesses, x ∈ u.groupAccesses) ∧
    ∀ m n isStore pr, memoryOperand i = some (m, n, isStore, pr) → s.pred pr = true →
      ⟨m.address s, n, isStore⟩ ∈ u.groupAccesses

/-- Where the instruction and the word before it both have B = 1, the group is the single instruction: conditions (a), (b)
and (e) of R326 hold, (d) holds where no access is remembered, and after it none is remembered (log 14, 15). Condition (c)
is not among them: it asks a prefix to have B = 0. -/
def Obligations.BreakEndsGroup : Prop :=
  ∀ (s : State) (i : Instr), s.launch.breakPolarity = .after → (s.wordAt (s.pc - 5)).getLsbD 39 = true →
    (s.wordAt s.pc).getLsbD 39 = true →
    s.groupHazard i = false ∧ (s.groupAccesses = [] → s.accessHazard i = false) ∧
      (i.brk = true → s.accessesAfter i = [])

/-! ## The decimal floating-point datum -/

/-- R275, R276: a datum is infinite exactly when its exponent is all ones and its significand zero, with the sign of bit 79
(one is positive), and a NaN exactly when its exponent is all ones and its significand is not zero. -/
def Obligations.InfinityAndNan : Prop :=
  (∀ (f : Float80) (positive : Bool),
    f.value = .infinity positive ↔ f.extractLsb' 70 9 = 511 ∧ f.extractLsb' 0 70 = 0 ∧ f.getLsbD 79 = positive) ∧
  (∀ f : Float80, f.value = .nan ↔ f.extractLsb' 70 9 = 511 ∧ f.extractLsb' 0 70 ≠ 0) ∧
  Float80.value 0xFFC00000000000000000#80 = .infinity true ∧ Float80.value 0x7FC00000000000000000#80 = .infinity false

/-- Every other datum is finite: sign by bit 79, a 21-digit coefficient whose declets count thousands from the low end, and
the biased exponent less 255 for the first digit, so less 275 for the last (R271 to R273, R277). -/
def Obligations.FiniteData : Prop :=
  ∀ f : Float80, f.extractLsb' 70 9 ≠ 511 →
    ∃ c : Nat, c < 10 ^ 21 ∧ f.value = .finite (f.getLsbD 79) c (((f.extractLsb' 70 9).toNat : Int) - 275) ∧
      ∀ k < 7, c / 1000 ^ k % 1000 = decletValue (f.extractLsb' (10 * k) 10)

/-- The eight rows of the declet code, and its checks: the standard code, which R274 itself marks as from general knowledge
(log 21). -/
def Obligations.DecletCode : Prop :=
  (decletValue 0x000 = 0 ∧ decletValue 0x009 = 9 ∧ decletValue 0x010 = 10 ∧ decletValue 0x00A = 80 ∧
    decletValue 0x0FF = 999 ∧ decletValue 0x1FF = 999 ∧ decletValue 0x2FF = 999 ∧ decletValue 0x3FF = 999) ∧
  ∀ a b c d e f g h i x y : Bool,
    let declet := fun b9 b8 b7 b6 b5 b4 b3 b2 b1 b0 : Bool =>
      decletDigits (BitVec.ofBoolListBE [b9, b8, b7, b6, b5, b4, b3, b2, b1, b0])
    let small := fun p q r : Bool => 4 * p.toNat + 2 * q.toNat + r.toNat
    let large := fun p : Bool => 8 + p.toNat
    declet a b c d e f false g h i = (small a b c, small d e f, small g h i) ∧
    declet a b c d e f true false false i = (small a b c, small d e f, large i) ∧
    declet a b c g h f true false true i = (small a b c, large f, small g h i) ∧
    declet g h c d e f true true false i = (large c, small d e f, small g h i) ∧
    declet g h c false false f true true true i = (large c, large f, small g h i) ∧
    declet d e c false true f true true true i = (large c, small d e f, large i) ∧
    declet a b c true false f true true true i = (small a b c, large f, large i) ∧
    declet x y c true true f true true true i = (large c, large f, large i)
end

