-- ==== Sys2Proof/Laws/Encoding.lean ====
section
/-! SUPPORT. What a field of an encoded word reads as (R82 to R90): the lemmas by which decoding undoes encoding, without
unfolding a format. -/

namespace Sys2Proof

/-- The proof step of every lemma below: bits of a concatenation, one at a time. -/
theorem bits_eq_of_getLsbD {w : IWord} {lo n : Nat} {v : BitVec n} (h : ∀ i < n, w.getLsbD (lo + i) = v.getLsbD i) :
    bits w lo n = v := by
  refine BitVec.eq_of_getLsbD_eq fun i hi => ?_
  simp [bits, hi, h i hi]

@[simp] theorem packRest_brk (brk : Bool) (op : BitVec 6) (rest : BitVec 33) :
    brkOf (packRest brk op rest) = brk := by
  simp only [brkOf, packRest, BitVec.getLsbD_append, reduceIte, Nat.reduceLT, Nat.reduceSub]
  cases brk <;> rfl

@[simp] theorem packRest_op (brk : Bool) (op : BitVec 6) (rest : BitVec 33) :
    bits (packRest brk op rest) 33 6 = op := by
  refine bits_eq_of_getLsbD fun i hi => ?_
  simp only [packRest, BitVec.getLsbD_append]
  repeat (split; · first | omega | (congr 1; omega))
  omega

@[simp] theorem packRest_rest (brk : Bool) (op : BitVec 6) (rest : BitVec 33) :
    bits (packRest brk op rest) 0 33 = rest := by
  refine bits_eq_of_getLsbD fun i hi => ?_
  simp only [packRest, BitVec.getLsbD_append]
  repeat (split; · first | omega | (congr 1; omega))
  omega

@[simp] theorem packRI_brk (brk : Bool) (op : BitVec 6) (imm : BitVec 15) (ra rt : RegNum) (pr : PredNum) :
    brkOf (packRI brk op imm ra rt pr) = brk := by
  simp only [brkOf, packRI, BitVec.getLsbD_append, reduceIte, Nat.reduceLT, Nat.reduceSub]
  cases brk <;> rfl

@[simp] theorem packRI_op (brk : Bool) (op : BitVec 6) (imm : BitVec 15) (ra rt : RegNum) (pr : PredNum) :
    bits (packRI brk op imm ra rt pr) 33 6 = op := by
  refine bits_eq_of_getLsbD fun i hi => ?_
  simp only [packRI, BitVec.getLsbD_append]
  repeat (split; · first | omega | (congr 1; omega))
  omega

@[simp] theorem packRI_imm (brk : Bool) (op : BitVec 6) (imm : BitVec 15) (ra rt : RegNum) (pr : PredNum) :
    bits (packRI brk op imm ra rt pr) 18 15 = imm := by
  refine bits_eq_of_getLsbD fun i hi => ?_
  simp only [packRI, BitVec.getLsbD_append]
  repeat (split; · first | omega | (congr 1; omega))
  omega

@[simp] theorem packRI_ra (brk : Bool) (op : BitVec 6) (imm : BitVec 15) (ra rt : RegNum) (pr : PredNum) :
    bits (packRI brk op imm ra rt pr) 12 6 = ra := by
  refine bits_eq_of_getLsbD fun i hi => ?_
  simp only [packRI, BitVec.getLsbD_append]
  repeat (split; · first | omega | (congr 1; omega))
  omega

@[simp] theorem packRI_rt (brk : Bool) (op : BitVec 6) (imm : BitVec 15) (ra rt : RegNum) (pr : PredNum) :
    bits (packRI brk op imm ra rt pr) 6 6 = rt := by
  refine bits_eq_of_getLsbD fun i hi => ?_
  simp only [packRI, BitVec.getLsbD_append]
  repeat (split; · first | omega | (congr 1; omega))
  omega

@[simp] theorem packRI_pr (brk : Bool) (op : BitVec 6) (imm : BitVec 15) (ra rt : RegNum) (pr : PredNum) :
    bits (packRI brk op imm ra rt pr) 0 6 = pr := by
  refine bits_eq_of_getLsbD fun i hi => ?_
  simp only [packRI, BitVec.getLsbD_append]
  repeat (split; · first | omega | (congr 1; omega))
  omega

@[simp] theorem packSetI_brk (brk : Bool) (op : BitVec 6) (op3 : BitVec 3) (imm : BitVec 12) (ra rt : RegNum) (pr : PredNum) :
    brkOf (packSetI brk op op3 imm ra rt pr) = brk := by
  simp only [brkOf, packSetI, BitVec.getLsbD_append, reduceIte, Nat.reduceLT, Nat.reduceSub]
  cases brk <;> rfl

@[simp] theorem packSetI_op (brk : Bool) (op : BitVec 6) (op3 : BitVec 3) (imm : BitVec 12) (ra rt : RegNum) (pr : PredNum) :
    bits (packSetI brk op op3 imm ra rt pr) 33 6 = op := by
  refine bits_eq_of_getLsbD fun i hi => ?_
  simp only [packSetI, BitVec.getLsbD_append]
  repeat (split; · first | omega | (congr 1; omega))
  omega

@[simp] theorem packSetI_op3 (brk : Bool) (op : BitVec 6) (op3 : BitVec 3) (imm : BitVec 12) (ra rt : RegNum) (pr : PredNum) :
    bits (packSetI brk op op3 imm ra rt pr) 30 3 = op3 := by
  refine bits_eq_of_getLsbD fun i hi => ?_
  simp only [packSetI, BitVec.getLsbD_append]
  repeat (split; · first | omega | (congr 1; omega))
  omega

@[simp] theorem packSetI_imm (brk : Bool) (op : BitVec 6) (op3 : BitVec 3) (imm : BitVec 12) (ra rt : RegNum) (pr : PredNum) :
    bits (packSetI brk op op3 imm ra rt pr) 18 12 = imm := by
  refine bits_eq_of_getLsbD fun i hi => ?_
  simp only [packSetI, BitVec.getLsbD_append]
  repeat (split; · first | omega | (congr 1; omega))
  omega

@[simp] theorem packSetI_ra (brk : Bool) (op : BitVec 6) (op3 : BitVec 3) (imm : BitVec 12) (ra rt : RegNum) (pr : PredNum) :
    bits (packSetI brk op op3 imm ra rt pr) 12 6 = ra := by
  refine bits_eq_of_getLsbD fun i hi => ?_
  simp only [packSetI, BitVec.getLsbD_append]
  repeat (split; · first | omega | (congr 1; omega))
  omega

@[simp] theorem packSetI_rt (brk : Bool) (op : BitVec 6) (op3 : BitVec 3) (imm : BitVec 12) (ra rt : RegNum) (pr : PredNum) :
    bits (packSetI brk op op3 imm ra rt pr) 6 6 = rt := by
  refine bits_eq_of_getLsbD fun i hi => ?_
  simp only [packSetI, BitVec.getLsbD_append]
  repeat (split; · first | omega | (congr 1; omega))
  omega

@[simp] theorem packSetI_pr (brk : Bool) (op : BitVec 6) (op3 : BitVec 3) (imm : BitVec 12) (ra rt : RegNum) (pr : PredNum) :
    bits (packSetI brk op op3 imm ra rt pr) 0 6 = pr := by
  refine bits_eq_of_getLsbD fun i hi => ?_
  simp only [packSetI, BitVec.getLsbD_append]
  repeat (split; · first | omega | (congr 1; omega))
  omega

@[simp] theorem packCmp_brk (brk : Bool) (op : BitVec 6) (op3 : BitVec 3) (pt2 pt1 : PredNum) (b : BitVec 6) (ra : RegNum)
    (pr : PredNum) :
    brkOf (packCmp brk op op3 pt2 pt1 b ra pr) = brk := by
  simp only [brkOf, packCmp, BitVec.getLsbD_append, reduceIte, Nat.reduceLT, Nat.reduceSub]
  cases brk <;> rfl

@[simp] theorem packCmp_op (brk : Bool) (op : BitVec 6) (op3 : BitVec 3) (pt2 pt1 : PredNum) (b : BitVec 6) (ra : RegNum)
    (pr : PredNum) :
    bits (packCmp brk op op3 pt2 pt1 b ra pr) 33 6 = op := by
  refine bits_eq_of_getLsbD fun i hi => ?_
  simp only [packCmp, BitVec.getLsbD_append]
  repeat (split; · first | omega | (congr 1; omega))
  omega

@[simp] theorem packCmp_op3 (brk : Bool) (op : BitVec 6) (op3 : BitVec 3) (pt2 pt1 : PredNum) (b : BitVec 6) (ra : RegNum)
    (pr : PredNum) :
    bits (packCmp brk op op3 pt2 pt1 b ra pr) 30 3 = op3 := by
  refine bits_eq_of_getLsbD fun i hi => ?_
  simp only [packCmp, BitVec.getLsbD_append]
  repeat (split; · first | omega | (congr 1; omega))
  omega

@[simp] theorem packCmp_pt2 (brk : Bool) (op : BitVec 6) (op3 : BitVec 3) (pt2 pt1 : PredNum) (b : BitVec 6) (ra : RegNum)
    (pr : PredNum) :
    bits (packCmp brk op op3 pt2 pt1 b ra pr) 24 6 = pt2 := by
  refine bits_eq_of_getLsbD fun i hi => ?_
  simp only [packCmp, BitVec.getLsbD_append]
  repeat (split; · first | omega | (congr 1; omega))
  omega

@[simp] theorem packCmp_pt1 (brk : Bool) (op : BitVec 6) (op3 : BitVec 3) (pt2 pt1 : PredNum) (b : BitVec 6) (ra : RegNum)
    (pr : PredNum) :
    bits (packCmp brk op op3 pt2 pt1 b ra pr) 18 6 = pt1 := by
  refine bits_eq_of_getLsbD fun i hi => ?_
  simp only [packCmp, BitVec.getLsbD_append]
  repeat (split; · first | omega | (congr 1; omega))
  omega

@[simp] theorem packCmp_b (brk : Bool) (op : BitVec 6) (op3 : BitVec 3) (pt2 pt1 : PredNum) (b : BitVec 6) (ra : RegNum)
    (pr : PredNum) :
    bits (packCmp brk op op3 pt2 pt1 b ra pr) 12 6 = b := by
  refine bits_eq_of_getLsbD fun i hi => ?_
  simp only [packCmp, BitVec.getLsbD_append]
  repeat (split; · first | omega | (congr 1; omega))
  omega

@[simp] theorem packCmp_ra (brk : Bool) (op : BitVec 6) (op3 : BitVec 3) (pt2 pt1 : PredNum) (b : BitVec 6) (ra : RegNum)
    (pr : PredNum) :
    bits (packCmp brk op op3 pt2 pt1 b ra pr) 6 6 = ra := by
  refine bits_eq_of_getLsbD fun i hi => ?_
  simp only [packCmp, BitVec.getLsbD_append]
  repeat (split; · first | omega | (congr 1; omega))
  omega

@[simp] theorem packCmp_pr (brk : Bool) (op : BitVec 6) (op3 : BitVec 3) (pt2 pt1 : PredNum) (b : BitVec 6) (ra : RegNum)
    (pr : PredNum) :
    bits (packCmp brk op op3 pt2 pt1 b ra pr) 0 6 = pr := by
  refine bits_eq_of_getLsbD fun i hi => ?_
  simp only [packCmp, BitVec.getLsbD_append]
  repeat (split; · first | omega | (congr 1; omega))
  omega

@[simp] theorem packBr_brk (brk : Bool) (op : BitVec 6) (disp : BitVec 27) (pr : PredNum) :
    brkOf (packBr brk op disp pr) = brk := by
  simp only [brkOf, packBr, BitVec.getLsbD_append, reduceIte, Nat.reduceLT, Nat.reduceSub]
  cases brk <;> rfl

@[simp] theorem packBr_op (brk : Bool) (op : BitVec 6) (disp : BitVec 27) (pr : PredNum) :
    bits (packBr brk op disp pr) 33 6 = op := by
  refine bits_eq_of_getLsbD fun i hi => ?_
  simp only [packBr, BitVec.getLsbD_append]
  repeat (split; · first | omega | (congr 1; omega))
  omega

@[simp] theorem packBr_disp (brk : Bool) (op : BitVec 6) (disp : BitVec 27) (pr : PredNum) :
    bits (packBr brk op disp pr) 6 27 = disp := by
  refine bits_eq_of_getLsbD fun i hi => ?_
  simp only [packBr, BitVec.getLsbD_append]
  repeat (split; · first | omega | (congr 1; omega))
  omega

@[simp] theorem packBr_pr (brk : Bool) (op : BitVec 6) (disp : BitVec 27) (pr : PredNum) :
    bits (packBr brk op disp pr) 0 6 = pr := by
  refine bits_eq_of_getLsbD fun i hi => ?_
  simp only [packBr, BitVec.getLsbD_append]
  repeat (split; · first | omega | (congr 1; omega))
  omega

@[simp] theorem packR2_brk (brk : Bool) (fn : BitVec 6) (op3 : BitVec 3) (rb ra rt : RegNum) (pr : PredNum) :
    brkOf (packR2 brk fn op3 rb ra rt pr) = brk := by
  simp only [brkOf, packR2, BitVec.getLsbD_append, reduceIte, Nat.reduceLT, Nat.reduceSub]
  cases brk <;> rfl

@[simp] theorem packR2_op (brk : Bool) (fn : BitVec 6) (op3 : BitVec 3) (rb ra rt : RegNum) (pr : PredNum) :
    bits (packR2 brk fn op3 rb ra rt pr) 33 6 = 2#6 := by
  refine bits_eq_of_getLsbD fun i hi => ?_
  simp only [packR2, BitVec.getLsbD_append]
  repeat (split; · first | omega | (congr 1; omega))
  omega

@[simp] theorem packR2_fn (brk : Bool) (fn : BitVec 6) (op3 : BitVec 3) (rb ra rt : RegNum) (pr : PredNum) :
    bits (packR2 brk fn op3 rb ra rt pr) 27 6 = fn := by
  refine bits_eq_of_getLsbD fun i hi => ?_
  simp only [packR2, BitVec.getLsbD_append]
  repeat (split; · first | omega | (congr 1; omega))
  omega

@[simp] theorem packR2_op3 (brk : Bool) (fn : BitVec 6) (op3 : BitVec 3) (rb ra rt : RegNum) (pr : PredNum) :
    bits (packR2 brk fn op3 rb ra rt pr) 24 3 = op3 := by
  refine bits_eq_of_getLsbD fun i hi => ?_
  simp only [packR2, BitVec.getLsbD_append]
  repeat (split; · first | omega | (congr 1; omega))
  omega

@[simp] theorem packR2_rb (brk : Bool) (fn : BitVec 6) (op3 : BitVec 3) (rb ra rt : RegNum) (pr : PredNum) :
    bits (packR2 brk fn op3 rb ra rt pr) 18 6 = rb := by
  refine bits_eq_of_getLsbD fun i hi => ?_
  simp only [packR2, BitVec.getLsbD_append]
  repeat (split; · first | omega | (congr 1; omega))
  omega

@[simp] theorem packR2_ra (brk : Bool) (fn : BitVec 6) (op3 : BitVec 3) (rb ra rt : RegNum) (pr : PredNum) :
    bits (packR2 brk fn op3 rb ra rt pr) 12 6 = ra := by
  refine bits_eq_of_getLsbD fun i hi => ?_
  simp only [packR2, BitVec.getLsbD_append]
  repeat (split; · first | omega | (congr 1; omega))
  omega

@[simp] theorem packR2_rt (brk : Bool) (fn : BitVec 6) (op3 : BitVec 3) (rb ra rt : RegNum) (pr : PredNum) :
    bits (packR2 brk fn op3 rb ra rt pr) 6 6 = rt := by
  refine bits_eq_of_getLsbD fun i hi => ?_
  simp only [packR2, BitVec.getLsbD_append]
  repeat (split; · first | omega | (congr 1; omega))
  omega

@[simp] theorem packR2_pr (brk : Bool) (fn : BitVec 6) (op3 : BitVec 3) (rb ra rt : RegNum) (pr : PredNum) :
    bits (packR2 brk fn op3 rb ra rt pr) 0 6 = pr := by
  refine bits_eq_of_getLsbD fun i hi => ?_
  simp only [packR2, BitVec.getLsbD_append]
  repeat (split; · first | omega | (congr 1; omega))
  omega

@[simp] theorem packShiftI_brk (brk : Bool) (fn : BitVec 6) (e : Bool) (imm : BitVec 7) (ra rt : RegNum) (pr : PredNum) :
    brkOf (packShiftI brk fn e imm ra rt pr) = brk := by
  simp only [brkOf, packShiftI, BitVec.getLsbD_append, reduceIte, Nat.reduceLT, Nat.reduceSub]
  cases brk <;> rfl

@[simp] theorem packShiftI_op (brk : Bool) (fn : BitVec 6) (e : Bool) (imm : BitVec 7) (ra rt : RegNum) (pr : PredNum) :
    bits (packShiftI brk fn e imm ra rt pr) 33 6 = 2#6 := by
  refine bits_eq_of_getLsbD fun i hi => ?_
  simp only [packShiftI, BitVec.getLsbD_append]
  repeat (split; · first | omega | (congr 1; omega))
  omega

@[simp] theorem packShiftI_fn (brk : Bool) (fn : BitVec 6) (e : Bool) (imm : BitVec 7) (ra rt : RegNum) (pr : PredNum) :
    bits (packShiftI brk fn e imm ra rt pr) 27 6 = fn := by
  refine bits_eq_of_getLsbD fun i hi => ?_
  simp only [packShiftI, BitVec.getLsbD_append]
  repeat (split; · first | omega | (congr 1; omega))
  omega

@[simp] theorem packShiftI_immediateForm (brk : Bool) (fn : BitVec 6) (e : Bool) (imm : BitVec 7) (ra rt : RegNum) (pr : PredNum) :
    (packShiftI brk fn e imm ra rt pr)[26] = true := by
  rw [← BitVec.getLsbD_eq_getElem]
  simp only [packShiftI, BitVec.getLsbD_append, reduceIte, Nat.reduceLT, Nat.reduceSub]
  rfl

@[simp] theorem packShiftI_e (brk : Bool) (fn : BitVec 6) (e : Bool) (imm : BitVec 7) (ra rt : RegNum) (pr : PredNum) :
    (packShiftI brk fn e imm ra rt pr)[25] = e := by
  rw [← BitVec.getLsbD_eq_getElem]
  simp only [packShiftI, BitVec.getLsbD_append, reduceIte, Nat.reduceLT, Nat.reduceSub]
  cases e <;> rfl

@[simp] theorem packShiftI_imm (brk : Bool) (fn : BitVec 6) (e : Bool) (imm : BitVec 7) (ra rt : RegNum) (pr : PredNum) :
    bits (packShiftI brk fn e imm ra rt pr) 18 7 = imm := by
  refine bits_eq_of_getLsbD fun i hi => ?_
  simp only [packShiftI, BitVec.getLsbD_append]
  repeat (split; · first | omega | (congr 1; omega))
  omega

@[simp] theorem packShiftI_ra (brk : Bool) (fn : BitVec 6) (e : Bool) (imm : BitVec 7) (ra rt : RegNum) (pr : PredNum) :
    bits (packShiftI brk fn e imm ra rt pr) 12 6 = ra := by
  refine bits_eq_of_getLsbD fun i hi => ?_
  simp only [packShiftI, BitVec.getLsbD_append]
  repeat (split; · first | omega | (congr 1; omega))
  omega

@[simp] theorem packShiftI_rt (brk : Bool) (fn : BitVec 6) (e : Bool) (imm : BitVec 7) (ra rt : RegNum) (pr : PredNum) :
    bits (packShiftI brk fn e imm ra rt pr) 6 6 = rt := by
  refine bits_eq_of_getLsbD fun i hi => ?_
  simp only [packShiftI, BitVec.getLsbD_append]
  repeat (split; · first | omega | (congr 1; omega))
  omega

@[simp] theorem packShiftI_pr (brk : Bool) (fn : BitVec 6) (e : Bool) (imm : BitVec 7) (ra rt : RegNum) (pr : PredNum) :
    bits (packShiftI brk fn e imm ra rt pr) 0 6 = pr := by
  refine bits_eq_of_getLsbD fun i hi => ?_
  simp only [packShiftI, BitVec.getLsbD_append]
  repeat (split; · first | omega | (congr 1; omega))
  omega

@[simp] theorem packR2_bit26 (brk : Bool) (fn : BitVec 6) (op3 : BitVec 3) (rb ra rt : RegNum) (pr : PredNum) :
    (packR2 brk fn op3 rb ra rt pr)[26] = op3.getLsbD 2 := by
  rw [← BitVec.getLsbD_eq_getElem]
  simp only [packR2, BitVec.getLsbD_append, Nat.reduceLT, Nat.reduceSub, reduceIte]

@[simp] theorem packR2_bit25 (brk : Bool) (fn : BitVec 6) (op3 : BitVec 3) (rb ra rt : RegNum) (pr : PredNum) :
    (packR2 brk fn op3 rb ra rt pr)[25] = op3.getLsbD 1 := by
  rw [← BitVec.getLsbD_eq_getElem]
  simp only [packR2, BitVec.getLsbD_append, Nat.reduceLT, Nat.reduceSub, reduceIte]

@[simp] theorem packR2_bit24 (brk : Bool) (fn : BitVec 6) (op3 : BitVec 3) (rb ra rt : RegNum) (pr : PredNum) :
    bits (packR2 brk fn op3 rb ra rt pr) 24 1 = op3.extractLsb' 0 1 := by
  refine bits_eq_of_getLsbD fun i hi => ?_
  obtain rfl : i = 0 := by omega
  simp only [packR2, BitVec.getLsbD_append]
  simp

@[simp] theorem packR2_op3_rb (brk : Bool) (fn : BitVec 6) (op3 : BitVec 3) (rb ra rt : RegNum) (pr : PredNum) :
    bits (packR2 brk fn op3 rb ra rt pr) 18 9 = op3 ++ rb := by
  refine bits_eq_of_getLsbD fun i hi => ?_
  simp only [packR2, BitVec.getLsbD_append]
  repeat (split; · first | omega | (split <;> first | omega | (congr 1; omega)))
  omega

end Sys2Proof
end

