-- ==== Sys2Proof/Laws/State.lean ====
section
/-! SUPPORT. One lemma for each field after each update of the state, and the register and predicate reads after a write,
so that no later proof unfolds a record update. -/

namespace Sys2Proof.Machine

/-! ## The end of an instruction -/

@[simp] theorem State.retireTo_regs (s : State) (t : Addr) :
    (s.retireTo t).regs = s.regs := rfl
@[simp] theorem State.retireTo_preds (s : State) (t : Addr) :
    (s.retireTo t).preds = s.preds := rfl
@[simp] theorem State.retireTo_pc (s : State) (t : Addr) :
    (s.retireTo t).pc = t := rfl
@[simp] theorem State.retireTo_mem (s : State) (t : Addr) :
    (s.retireTo t).mem = s.mem := rfl
@[simp] theorem State.retireTo_pendCon (s : State) (t : Addr) :
    (s.retireTo t).pendCon = none := rfl
@[simp] theorem State.retireTo_pendReg (s : State) (t : Addr) :
    (s.retireTo t).pendReg = none := rfl
@[simp] theorem State.retireTo_pendCarry (s : State) (t : Addr) :
    (s.retireTo t).pendCarry = s.pendCarry := rfl
@[simp] theorem State.retireTo_groupAccesses (s : State) (t : Addr) :
    (s.retireTo t).groupAccesses = s.groupAccesses := rfl
@[simp] theorem State.retireTo_launch (s : State) (t : Addr) :
    (s.retireTo t).launch = s.launch := rfl
@[simp] theorem State.retire_regs (s : State) :
    s.retire.regs = s.regs := rfl
@[simp] theorem State.retire_preds (s : State) :
    s.retire.preds = s.preds := rfl
@[simp] theorem State.retire_pc (s : State) :
    s.retire.pc = s.next := rfl
@[simp] theorem State.retire_mem (s : State) :
    s.retire.mem = s.mem := rfl
@[simp] theorem State.retire_pendCon (s : State) :
    s.retire.pendCon = none := rfl
@[simp] theorem State.retire_pendReg (s : State) :
    s.retire.pendReg = none := rfl
@[simp] theorem State.retire_pendCarry (s : State) :
    s.retire.pendCarry = s.pendCarry := rfl
@[simp] theorem State.retire_groupAccesses (s : State) :
    s.retire.groupAccesses = s.groupAccesses := rfl
@[simp] theorem State.retire_launch (s : State) :
    s.retire.launch = s.launch := rfl
@[simp] theorem State.retireTo_reg (s : State) (t : Addr) (r : RegNum) :
    (s.retireTo t).reg r = s.reg r := rfl
@[simp] theorem State.retire_reg (s : State) (r : RegNum) :
    s.retire.reg r = s.reg r := rfl
@[simp] theorem State.retireTo_pred (s : State) (t : Addr) (p : PredNum) :
    (s.retireTo t).pred p = s.pred p := rfl
@[simp] theorem State.retire_pred (s : State) (p : PredNum) :
    s.retire.pred p = s.pred p := rfl
@[simp] theorem State.retireTo_byte (s : State) (t : Addr) (a : Addr) :
    (s.retireTo t).byte a = s.byte a := rfl
@[simp] theorem State.retire_byte (s : State) (a : Addr) :
    s.retire.byte a = s.byte a := rfl

/-! ## A write of a register -/

@[simp] theorem State.setReg_preds (s : State) (r : RegNum) (v : Word) :
    (s.setReg r v).preds = s.preds := by
  unfold State.setReg; split <;> rfl
@[simp] theorem State.setReg_pc (s : State) (r : RegNum) (v : Word) :
    (s.setReg r v).pc = s.pc := by
  unfold State.setReg; split <;> rfl
@[simp] theorem State.setReg_mem (s : State) (r : RegNum) (v : Word) :
    (s.setReg r v).mem = s.mem := by
  unfold State.setReg; split <;> rfl
@[simp] theorem State.setReg_pendCon (s : State) (r : RegNum) (v : Word) :
    (s.setReg r v).pendCon = s.pendCon := by
  unfold State.setReg; split <;> rfl
@[simp] theorem State.setReg_pendReg (s : State) (r : RegNum) (v : Word) :
    (s.setReg r v).pendReg = s.pendReg := by
  unfold State.setReg; split <;> rfl
@[simp] theorem State.setReg_pendCarry (s : State) (r : RegNum) (v : Word) :
    (s.setReg r v).pendCarry = s.pendCarry := by
  unfold State.setReg; split <;> rfl
@[simp] theorem State.setReg_groupAccesses (s : State) (r : RegNum) (v : Word) :
    (s.setReg r v).groupAccesses = s.groupAccesses := by
  unfold State.setReg; split <;> rfl
@[simp] theorem State.setReg_launch (s : State) (r : RegNum) (v : Word) :
    (s.setReg r v).launch = s.launch := by
  unfold State.setReg; split <;> rfl
@[simp] theorem State.setReg_next (s : State) (r : RegNum) (v : Word) :
    (s.setReg r v).next = s.next := by
  simp [State.next]
@[simp] theorem State.setReg_pred (s : State) (r : RegNum) (v : Word) (p : PredNum) :
    (s.setReg r v).pred p = s.pred p := by
  simp [State.pred]
@[simp] theorem State.setReg_byte (s : State) (r : RegNum) (v : Word) (a : Addr) :
    (s.setReg r v).byte a = s.byte a := by
  simp [State.byte]

/-- A register read after a register write (R7, R21). -/
@[simp] theorem State.setReg_reg (s : State) (r : RegNum) (v : Word) (q : RegNum) :
    (s.setReg r v).reg q = regsWith s.reg r v q := by
  unfold State.setReg State.reg regsWith
  by_cases hq : q = 0#6
  · simp [hq]
  · by_cases hr : r = 0#6
    · subst hr; simp [hq]
    · by_cases h : q = r
      · subst h; simp [hq]
      · have h' : r.toNat ≠ q.toNat := fun e => h (BitVec.eq_of_toNat_eq e.symm)
        simp [hq, hr, h, h']

/-- The entry behind R0 is not written (R21). -/
@[simp] theorem State.setReg_regZero (s : State) (r : RegNum) (v : Word) :
    (s.setReg r v).regs[0] = s.regs[0] := by
  unfold State.setReg
  split
  · rfl
  · rename_i h
    have h' : r.toNat ≠ 0 := fun e => h (BitVec.eq_of_toNat_eq e)
    simp [h']

/-! ## A write of a predicate -/

@[simp] theorem State.setPred_regs (s : State) (p : PredNum) (b : Bool) :
    (s.setPred p b).regs = s.regs := by
  unfold State.setPred; split <;> rfl
@[simp] theorem State.setPred_pc (s : State) (p : PredNum) (b : Bool) :
    (s.setPred p b).pc = s.pc := by
  unfold State.setPred; split <;> rfl
@[simp] theorem State.setPred_mem (s : State) (p : PredNum) (b : Bool) :
    (s.setPred p b).mem = s.mem := by
  unfold State.setPred; split <;> rfl
@[simp] theorem State.setPred_pendCon (s : State) (p : PredNum) (b : Bool) :
    (s.setPred p b).pendCon = s.pendCon := by
  unfold State.setPred; split <;> rfl
@[simp] theorem State.setPred_pendReg (s : State) (p : PredNum) (b : Bool) :
    (s.setPred p b).pendReg = s.pendReg := by
  unfold State.setPred; split <;> rfl
@[simp] theorem State.setPred_pendCarry (s : State) (p : PredNum) (b : Bool) :
    (s.setPred p b).pendCarry = s.pendCarry := by
  unfold State.setPred; split <;> rfl
@[simp] theorem State.setPred_groupAccesses (s : State) (p : PredNum) (b : Bool) :
    (s.setPred p b).groupAccesses = s.groupAccesses := by
  unfold State.setPred; split <;> rfl
@[simp] theorem State.setPred_launch (s : State) (p : PredNum) (b : Bool) :
    (s.setPred p b).launch = s.launch := by
  unfold State.setPred; split <;> rfl
@[simp] theorem State.setPred_next (s : State) (p : PredNum) (b : Bool) :
    (s.setPred p b).next = s.next := by
  simp [State.next]
@[simp] theorem State.setPred_reg (s : State) (p : PredNum) (b : Bool) (r : RegNum) :
    (s.setPred p b).reg r = s.reg r := by
  simp [State.reg]
@[simp] theorem State.setPred_byte (s : State) (p : PredNum) (b : Bool) (a : Addr) :
    (s.setPred p b).byte a = s.byte a := by
  simp [State.byte]

/-- A predicate read after a predicate write (R7, R25). -/
@[simp] theorem State.setPred_pred (s : State) (p : PredNum) (b : Bool) (q : PredNum) :
    (s.setPred p b).pred q = predsWith s.pred p b q := by
  unfold State.setPred State.pred predsWith
  by_cases h0 : q = 0#6
  · simp [h0]
  · by_cases h1 : q = 1#6
    · simp [h1]
    · by_cases hp : p = 0#6 ∨ p = 1#6
      · have h : q ≠ p := by rintro rfl; exact hp.elim h0 h1
        simp [h0, h1, hp, h]
      · by_cases h : q = p
        · subst h; simp [h0, h1]
        · have h' : p.toNat ≠ q.toNat := fun e => h (BitVec.eq_of_toNat_eq e.symm)
          simp [h0, h1, hp, h, h']

/-- The entries behind P0 and P1 are not written (R25). -/
@[simp] theorem State.setPred_predZero (s : State) (p : PredNum) (b : Bool) :
    (s.setPred p b).preds[0] = s.preds[0] := by
  unfold State.setPred
  split
  · rfl
  · rename_i h
    have h' : p.toNat ≠ 0 := fun e => h (.inl (BitVec.eq_of_toNat_eq e))
    simp [h']

@[simp] theorem State.setPred_predOne (s : State) (p : PredNum) (b : Bool) :
    (s.setPred p b).preds[1] = s.preds[1] := by
  unfold State.setPred
  split
  · rfl
  · rename_i h
    have h' : p.toNat ≠ 1 := fun e => h (.inr (BitVec.eq_of_toNat_eq e))
    simp [h']

/-! ## A write of memory -/

@[simp] theorem State.reg_withMem (s : State) (m : Memory) (r : RegNum) :
    State.reg { s with mem := m } r = s.reg r := rfl
@[simp] theorem State.pred_withMem (s : State) (m : Memory) (p : PredNum) :
    State.pred { s with mem := m } p = s.pred p := rfl
@[simp] theorem State.next_withMem (s : State) (m : Memory) :
    State.next { s with mem := m } = s.next := rfl
@[simp] theorem State.byte_withMem (s : State) (m : Memory) (a : Addr) :
    State.byte { s with mem := m } a = memByte m a.toNat := rfl

/-! ## The second target of a REG -/

@[simp] theorem State.setRegT_preds (s : State) (v : Word) :
    (s.setRegT v).preds = s.preds := by
  unfold State.setRegT; split <;> simp
@[simp] theorem State.setRegT_pc (s : State) (v : Word) :
    (s.setRegT v).pc = s.pc := by
  unfold State.setRegT; split <;> simp
@[simp] theorem State.setRegT_mem (s : State) (v : Word) :
    (s.setRegT v).mem = s.mem := by
  unfold State.setRegT; split <;> simp
@[simp] theorem State.setRegT_pendCon (s : State) (v : Word) :
    (s.setRegT v).pendCon = s.pendCon := by
  unfold State.setRegT; split <;> simp
@[simp] theorem State.setRegT_pendReg (s : State) (v : Word) :
    (s.setRegT v).pendReg = s.pendReg := by
  unfold State.setRegT; split <;> simp
@[simp] theorem State.setRegT_pendCarry (s : State) (v : Word) :
    (s.setRegT v).pendCarry = s.pendCarry := by
  unfold State.setRegT; split <;> simp
@[simp] theorem State.setRegT_groupAccesses (s : State) (v : Word) :
    (s.setRegT v).groupAccesses = s.groupAccesses := by
  unfold State.setRegT; split <;> simp
@[simp] theorem State.setRegT_launch (s : State) (v : Word) :
    (s.setRegT v).launch = s.launch := by
  unfold State.setRegT; split <;> simp
@[simp] theorem State.setRegT_next (s : State) (v : Word) :
    (s.setRegT v).next = s.next := by
  simp [State.next]
@[simp] theorem State.setRegT_pred (s : State) (v : Word) (p : PredNum) :
    (s.setRegT v).pred p = s.pred p := by
  simp [State.pred]
@[simp] theorem State.setRegT_byte (s : State) (v : Word) (a : Addr) :
    (s.setRegT v).byte a = s.byte a := by
  simp [State.byte]
@[simp] theorem State.setRegT_regZero (s : State) (v : Word) :
    (s.setRegT v).regs[0] = s.regs[0] := by
  unfold State.setRegT; split <;> simp
/-- With no REG pending there is no second target. -/
theorem State.setRegT_of_none {s : State} (h : s.pendReg = none) (v : Word) : s.setRegT v = s := by
  simp [State.setRegT, h]
/-- With a REG pending the second target is its Rt (R257). -/
theorem State.setRegT_of_some {s : State} {p : PendReg} (h : s.pendReg = some p) (v : Word) :
    s.setRegT v = s.setReg p.rt v := by
  simp [State.setRegT, h]

/-! ## The predicate targets of a compare -/

@[simp] theorem State.writeTargets_regs (s : State) (pt1 pt2 : PredNum) (t : Bool) :
    (s.writeTargets pt1 pt2 t).regs = s.regs := by
  unfold State.writeTargets; split <;> simp
@[simp] theorem State.writeTargets_pc (s : State) (pt1 pt2 : PredNum) (t : Bool) :
    (s.writeTargets pt1 pt2 t).pc = s.pc := by
  unfold State.writeTargets; split <;> simp
@[simp] theorem State.writeTargets_mem (s : State) (pt1 pt2 : PredNum) (t : Bool) :
    (s.writeTargets pt1 pt2 t).mem = s.mem := by
  unfold State.writeTargets; split <;> simp
@[simp] theorem State.writeTargets_pendCon (s : State) (pt1 pt2 : PredNum) (t : Bool) :
    (s.writeTargets pt1 pt2 t).pendCon = s.pendCon := by
  unfold State.writeTargets; split <;> simp
@[simp] theorem State.writeTargets_pendReg (s : State) (pt1 pt2 : PredNum) (t : Bool) :
    (s.writeTargets pt1 pt2 t).pendReg = s.pendReg := by
  unfold State.writeTargets; split <;> simp
@[simp] theorem State.writeTargets_pendCarry (s : State) (pt1 pt2 : PredNum) (t : Bool) :
    (s.writeTargets pt1 pt2 t).pendCarry = s.pendCarry := by
  unfold State.writeTargets; split <;> simp
@[simp] theorem State.writeTargets_groupAccesses (s : State) (pt1 pt2 : PredNum) (t : Bool) :
    (s.writeTargets pt1 pt2 t).groupAccesses = s.groupAccesses := by
  unfold State.writeTargets; split <;> simp
@[simp] theorem State.writeTargets_launch (s : State) (pt1 pt2 : PredNum) (t : Bool) :
    (s.writeTargets pt1 pt2 t).launch = s.launch := by
  unfold State.writeTargets; split <;> simp
@[simp] theorem State.writeTargets_next (s : State) (pt1 pt2 : PredNum) (t : Bool) :
    (s.writeTargets pt1 pt2 t).next = s.next := by
  simp [State.next]
@[simp] theorem State.writeTargets_reg (s : State) (pt1 pt2 : PredNum) (t : Bool) (r : RegNum) :
    (s.writeTargets pt1 pt2 t).reg r = s.reg r := by
  simp [State.reg]
@[simp] theorem State.writeTargets_byte (s : State) (pt1 pt2 : PredNum) (t : Bool) (a : Addr) :
    (s.writeTargets pt1 pt2 t).byte a = s.byte a := by
  simp [State.byte]
@[simp] theorem State.writeTargets_predZero (s : State) (pt1 pt2 : PredNum) (t : Bool) :
    (s.writeTargets pt1 pt2 t).preds[0] = s.preds[0] := by
  unfold State.writeTargets; split <;> simp
@[simp] theorem State.writeTargets_predOne (s : State) (pt1 pt2 : PredNum) (t : Bool) :
    (s.writeTargets pt1 pt2 t).preds[1] = s.preds[1] := by
  unfold State.writeTargets; split <;> simp

/-! ## The end of a step -/

@[simp] theorem State.closeStep_regs (i : Instr) (s t : State) :
    (s.closeStep i t).regs = t.regs := rfl
@[simp] theorem State.closeStep_preds (i : Instr) (s t : State) :
    (s.closeStep i t).preds = t.preds := rfl
@[simp] theorem State.closeStep_pc (i : Instr) (s t : State) :
    (s.closeStep i t).pc = t.pc := rfl
@[simp] theorem State.closeStep_mem (i : Instr) (s t : State) :
    (s.closeStep i t).mem = t.mem := rfl
@[simp] theorem State.closeStep_pendCon (i : Instr) (s t : State) :
    (s.closeStep i t).pendCon = t.pendCon := rfl
@[simp] theorem State.closeStep_pendReg (i : Instr) (s t : State) :
    (s.closeStep i t).pendReg = t.pendReg := rfl
@[simp] theorem State.closeStep_pendCarry (i : Instr) (s t : State) :
    (s.closeStep i t).pendCarry = t.pendCarry := rfl
@[simp] theorem State.closeStep_groupAccesses (i : Instr) (s t : State) :
    (s.closeStep i t).groupAccesses = s.accessesAfter i := rfl
@[simp] theorem State.closeStep_launch (i : Instr) (s t : State) :
    (s.closeStep i t).launch = t.launch := rfl
@[simp] theorem State.closeStep_reg (i : Instr) (s t : State) (r : RegNum) :
    (s.closeStep i t).reg r = t.reg r := rfl
@[simp] theorem State.closeStep_pred (i : Instr) (s t : State) (p : PredNum) :
    (s.closeStep i t).pred p = t.pred p := rfl
@[simp] theorem State.closeStep_byte (i : Instr) (s t : State) (a : Addr) :
    (s.closeStep i t).byte a = t.byte a := rfl

/-! ## The hard-wired reads -/

@[simp] theorem State.reg_zero (s : State) : s.reg 0#6 = 0#128 := by simp [State.reg]
@[simp] theorem State.pred_zero (s : State) : s.pred 0#6 = false := by simp [State.pred]
@[simp] theorem State.pred_one (s : State) : s.pred 1#6 = true := by simp [State.pred]
/-- A write of R0 changes no read (R21). -/
theorem regsWith_zero (s : State) (v : Word) : regsWith s.reg 0 v = s.reg := by
  funext r; by_cases h : r = 0#6 <;> simp [regsWith, h]

end Sys2Proof.Machine
end

