-- ==== Sys2Proof/Laws/Memory.lean ====
section
/-! SUPPORT. Memory: a read after a write, the canonical form that every write keeps, and what the byte-wise load and store
do with the bytes of a value (R53, R55, R56). -/

namespace Sys2Proof.Machine

/-- Below the first entry memory reads as unlisted. -/
theorem memByte_of_below {m : Memory} {a : Nat} (h : ∀ c ∈ m, a < c.1) : memByte m a = Config.unlistedByte := by
  induction m with
  | nil => rfl
  | cons c m ih =>
    have hc := h c (by simp)
    simp only [memByte]
    rw [if_neg (by omega)]
    exact ih fun d hd => h d (by simp [hd])

/-- A write adds at most its own entry. -/
theorem mem_memSet {m : Memory} {a : Nat} {b : Byte} {c : Host.Cell} (h : c ∈ memSet m a b) :
    c ∈ m ∨ (c = (a, b) ∧ b ≠ Config.unlistedByte) := by
  induction m with
  | nil =>
    by_cases hb : b = Config.unlistedByte <;> simp_all [memSet]
  | cons d m ih =>
    obtain ⟨k, v⟩ := d
    simp only [memSet] at h
    split at h
    · split at h
      · exact .inl h
      · rcases List.mem_cons.1 h with h | h <;> simp_all
    · split at h
      · split at h
        · exact .inl (by simp [h])
        · rcases List.mem_cons.1 h with h | h <;> simp_all
      · rcases List.mem_cons.1 h with h | h
        · exact .inl (by simp [h])
        · exact (ih h).imp (fun h => by simp [h]) id

/-- A write keeps the canonical form. -/
theorem memSet_wf {m : Memory} (h : Memory.wf m) {a : Nat} (ha : a < 2 ^ 128) (b : Byte) : Memory.wf (memSet m a b) := by
  refine ⟨?_, fun c hc => ?_⟩
  · obtain ⟨hs, -⟩ := h
    induction m with
    | nil => by_cases hb : b = Config.unlistedByte <;> simp [memSet, hb]
    | cons d m ih =>
      obtain ⟨k, v⟩ := d
      simp only [List.pairwise_cons] at hs
      simp only [memSet]
      split
      · split
        · simpa using hs
        · refine List.pairwise_cons.2 ⟨fun c hc => ?_, by simpa using hs⟩
          rcases List.mem_cons.1 hc with rfl | hc
          · assumption
          · have := hs.1 c hc; simp only at *; omega
      · split
        · subst_vars
          split
          · exact hs.2
          · exact List.pairwise_cons.2 hs
        · refine List.pairwise_cons.2 ⟨fun c hc => ?_, ih hs.2⟩
          rcases mem_memSet hc with hc | ⟨rfl, -⟩
          · exact hs.1 c hc
          · simp only; omega
  · rcases mem_memSet hc with hc | ⟨rfl, hb⟩
    · exact h.2 c hc
    · exact ⟨ha, hb⟩

/-- A byte read after a byte write. -/
theorem memByte_memSet {m : Memory} (h : Memory.wf m) (a : Nat) (b : Byte) (x : Nat) :
    memByte (memSet m a b) x = if x = a then b else memByte m x := by
  obtain ⟨hs, -⟩ := h
  induction m with
  | nil =>
    by_cases hb : b = Config.unlistedByte
    · simp [memSet, memByte, hb]
    · by_cases hx : x = a
      · simp [memSet, memByte, hb, hx]
      · have : ¬ a = x := fun e => hx e.symm
        simp [memSet, memByte, hb, hx, this]
  | cons d m ih =>
    obtain ⟨k, v⟩ := d
    simp only [List.pairwise_cons] at hs
    have below : ∀ y ≤ k, memByte m y = Config.unlistedByte := fun y hy =>
      memByte_of_below fun c hc => by have := hs.1 c hc; omega
    simp only [memSet]
    split
    · split
      · subst_vars
        by_cases hx : x = a
        · subst hx; simp only [memByte, if_true]
          rw [if_neg (by omega), below x (by omega)]
        · rw [if_neg hx]
      · by_cases hx : x = a
        · subst hx; simp [memByte]
        · rw [if_neg hx, memByte, if_neg (Ne.symm hx)]
    · split
      · rename_i hak
        subst hak
        split
        · rename_i hb
          by_cases hx : x = a
          · rw [if_pos hx, hb, below x (by omega)]
          · rw [if_neg hx, memByte, if_neg (Ne.symm hx)]
        · by_cases hx : x = a
          · subst hx; simp [memByte]
          · rw [if_neg hx, memByte, memByte, if_neg (Ne.symm hx), if_neg (Ne.symm hx)]
      · rw [memByte, memByte, ih hs.2]
        by_cases hk : k = x
        · have hx : ¬ x = a := by omega
          rw [if_pos hk, if_neg hx, if_pos hk]
        · rw [if_neg hk, if_neg hk]

/-- A store keeps the canonical form. -/
theorem storeBytes_wf {m : Memory} (h : Memory.wf m) (a : Addr) (v : Word) (n : Nat) :
    Memory.wf (storeBytes m a v n) := by
  induction n generalizing m a v with
  | zero => exact h
  | succ n ih => exact ih (memSet_wf h a.isLt _) _ _

/-- A byte read after a store of `n` bytes (R53, R56). -/
theorem memByte_storeBytes {m : Memory} (h : Memory.wf m) (a : Addr) (v : Word) {n : Nat} (hn : n ≤ 2 ^ 128) (x : Addr) :
    memByte (storeBytes m a v n) x.toNat =
      if (x - a).toNat < n then v.extractLsb' (8 * (x - a).toNat) 8 else memByte m x.toNat := by
  induction n generalizing m a v with
  | zero => simp [storeBytes]
  | succ n ih =>
    rw [storeBytes, ih (memSet_wf h a.isLt _) _ _ (by omega), memByte_memSet h]
    have hx := x.isLt
    have ha := a.isLt
    have e1 : (x - a).toNat = (2 ^ 128 - a.toNat + x.toNat) % 2 ^ 128 := BitVec.toNat_sub x a
    have e2 : (x - (a + 1)).toNat = (2 ^ 128 - (a.toNat + 1) % 2 ^ 128 + x.toNat) % 2 ^ 128 := by
      rw [BitVec.toNat_sub, BitVec.toNat_add]; rfl
    by_cases hxa : x.toNat = a.toNat
    · have h0 : (x - a).toNat = 0 := by rw [e1]; omega
      have h1 : ¬ (x - (a + 1)).toNat < n := by rw [e2]; omega
      rw [if_neg h1, if_pos hxa, h0, if_pos (by omega)]
      apply BitVec.eq_of_getLsbD_eq
      intro i hi
      simp [hi]
    · have h1 : (x - a).toNat = (x - (a + 1)).toNat + 1 := by rw [e1, e2]; omega
      rw [if_neg hxa, h1]
      by_cases hlt : (x - (a + 1)).toNat < n
      · rw [if_pos hlt, if_pos (by omega)]
        apply BitVec.eq_of_getLsbD_eq
        intro i hi
        simp only [BitVec.getLsbD_extractLsb', BitVec.getLsbD_ushiftRight, hi, decide_true, Bool.true_and]
        congr 1; omega
      · rw [if_neg hlt, if_neg (by omega)]

/-- The bytes after a store as the statements say them. -/
theorem byte_storeBytes {s : State} (h : Memory.wf s.mem) (a : Addr) (v : Word) {n : Nat} (hn : n ≤ 2 ^ 128) (x : Addr) :
    memByte (storeBytes s.mem a v n) x.toNat = bytesWith s.byte a n v x :=
  memByte_storeBytes h a v hn x

/-- A load of `n` bytes has nothing above them. -/
theorem loadBytes_lt (m : Memory) (a : Addr) {n : Nat} (hn : n ≤ 16) : (loadBytes m a n).toNat < 2 ^ (8 * n) := by
  induction n generalizing a with
  | zero => simp [loadBytes]
  | succ n ih =>
    have h := ih (a + 1) (by omega)
    have hb := (memByte m a.toNat).isLt
    have e : (2 : Nat) ^ (8 * (n + 1)) = 2 ^ (8 * n) * 256 := by rw [Nat.mul_add, Nat.pow_add]
    have le : (2 : Nat) ^ (8 * n) ≤ 2 ^ 120 := Nat.pow_le_pow_right (by omega) (by omega)
    rw [loadBytes, BitVec.toNat_or, BitVec.toNat_shiftLeft, Nat.shiftLeft_eq,
      Nat.mod_eq_of_lt (by omega), BitVec.toNat_setWidth, Nat.mod_eq_of_lt (by omega),
      show (2 : Nat) ^ 8 = 256 from rfl, Nat.mul_comm,
      show (256 : Nat) = 2 ^ 8 from rfl, ← Nat.two_pow_add_eq_or_of_lt hb, e]
    omega

/-- A load is the number its bytes spell, the first the least significant (R53, R55). -/
theorem loadBytes_toNat (m : Memory) (a : Addr) {n : Nat} (hn : n ≤ 16) :
    (loadBytes m a n).toNat = littleEndian ((byteAddrs a n).map fun x => memByte m x.toNat) := by
  induction n generalizing a with
  | zero => rfl
  | succ n ih =>
    have h := loadBytes_lt m (a + 1) (n := n) (by omega)
    have hb := (memByte m a.toNat).isLt
    have le : (2 : Nat) ^ (8 * n) ≤ 2 ^ 120 := Nat.pow_le_pow_right (by omega) (by omega)
    have hl : byteAddrs a (n + 1) = a :: byteAddrs (a + 1) n := by
      unfold byteAddrs
      rw [List.range_succ_eq_map, List.map_cons, List.map_map]
      refine congrArg₂ _ (by simp) (List.map_congr_left fun i _ => ?_)
      apply BitVec.eq_of_toNat_eq
      have one : BitVec.toNat (1 : Addr) = 1 := rfl
      simp only [Function.comp, BitVec.toNat_add, BitVec.toNat_ofNat, one]
      omega
    rw [loadBytes, BitVec.toNat_or, BitVec.toNat_shiftLeft, Nat.shiftLeft_eq,
      Nat.mod_eq_of_lt (by omega), BitVec.toNat_setWidth, Nat.mod_eq_of_lt (by omega),
      Nat.mul_comm, ← Nat.two_pow_add_eq_or_of_lt hb, ih (a + 1) (by omega), hl]
    simp only [List.map_cons, littleEndian]
    omega

theorem storeWords_wf {m : Memory} (h : Memory.wf m) (a : Addr) (ws : List IWord) : Memory.wf (storeWords m a ws) := by
  induction ws generalizing m a with
  | nil => exact h
  | cons w ws ih => exact ih (storeBytes_wf h a _ 5) _

theorem withFetchWord_wf {s : State} (h : Memory.wf s.mem) (nbits w : Nat) : Memory.wf (s.withFetchWord nbits w).mem :=
  storeWords_wf h s.pc _

/-- Memory at reset is in its canonical form. -/
theorem reset_memory_wf : Memory.wf State.reset.mem := ⟨.nil, by intro c hc; cases hc⟩

end Sys2Proof.Machine
end

