-- ==== Sys2Proof/Laws/Operations.lean ====
section
/-! SUPPORT. For each shared operation, once, everything it can do: what holds if it answers a next state, and what it
leaves behind where it completes. -/

namespace Sys2Proof.Machine

/-! ## Pairing with a prefix (R250) -/

theorem pairNone_eq_none {s : State} : s.pairNone = none ↔ s.NoPrefix := by
  unfold State.pairNone State.NoPrefix
  cases s.pendReg <;> cases s.pendCon <;> simp

theorem pairConst_eq_none {s : State} {brk : Bool} {pr : PredNum} :
    s.pairConst brk pr = none ↔
      s.pendReg = none ∧ ∀ p, s.pendCon = some p → p.pr = pr ∧ s.cutOff brk = false := by
  unfold State.pairConst State.conJoined
  cases s.pendReg <;> cases s.pendCon <;> simp

theorem pairConst_of_noPrefix {s : State} (h : s.NoPrefix) (brk : Bool) (pr : PredNum) : s.pairConst brk pr = none :=
  pairConst_eq_none.2 ⟨h.1, by simp [h.2]⟩

theorem pairMayReg_eq_none {s : State} {brk : Bool} {pr : PredNum} {fits : PendReg → Bool} :
    s.pairMayReg brk pr fits = none ↔
      s.pendCon = none ∧ ∀ p, s.pendReg = some p → p.pr = pr ∧ s.cutOff brk = false ∧ fits p = true := by
  unfold State.pairMayReg State.regJoined
  cases s.pendReg <;> cases s.pendCon <;> simp [and_assoc]

theorem pairMustReg_eq_none {s : State} {brk : Bool} {pr : PredNum} {fits : PendReg → Bool} :
    s.pairMustReg brk pr fits = none ↔
      s.pendCon = none ∧ ∃ p, s.pendReg = some p ∧ p.pr = pr ∧ s.cutOff brk = false ∧ fits p = true := by
  unfold State.pairMustReg State.regJoined
  cases s.pendReg <;> cases s.pendCon <;> simp [and_assoc]

theorem pairMayRegOrConst_eq_none {s : State} {brk : Bool} {pr : PredNum} {fits : PendReg → Bool} :
    s.pairMayRegOrConst brk pr fits = none ↔
      (s.pendReg = none ∧ s.pairConst brk pr = none) ∨
        ((∃ p, s.pendReg = some p) ∧ s.pairMayReg brk pr fits = none) := by
  unfold State.pairMayRegOrConst
  cases h : s.pendReg <;> simp

/-- Without a constant prefix a constant is the sign-extended immediate (R92). -/
theorem constant_of_none {s : State} (h : s.pendCon = none) {n : Nat} (v : BitVec n) :
    s.constant v = v.signExtend 128 := by
  simp [State.constant, h]

/-! ## The guard (R8) -/

theorem issue_next {p : Option Refusal} {pr : PredNum} {s t : State} {body : Result} (h : issue p pr s body = .next t) :
    p = none ∧ ((s.pred pr = true ∧ body = .next t) ∨ (s.pred pr = false ∧ t = s.retire)) := by
  unfold issue at h
  cases p with
  | some r => cases h
  | none =>
    by_cases hp : s.pred pr = true
    · simp [hp] at h; simp [hp, h]
    · simp [hp] at h; simp [hp, h]

theorem issue_of_false {p : Option Refusal} {pr : PredNum} {s : State} {body : Result} (hp : p = none)
    (h : s.pred pr = false) : issue p pr s body = .next s.retire := by
  simp [issue, hp, h]

theorem issue_of_true {p : Option Refusal} {pr : PredNum} {s : State} {body : Result} (hp : p = none)
    (h : s.pred pr = true) : issue p pr s body = body := by
  simp [issue, hp, h]

theorem issue_not_fault {p : Option Refusal} {pr : PredNum} {s : State} {body : Result} {f : Fault}
    (h : body ≠ .fault f) : issue p pr s body ≠ .fault f := by
  unfold issue
  cases p with
  | some r => simp
  | none => by_cases hp : s.pred pr = true <;> simp [hp, h]

/-- What a skipped or empty instruction leaves behind. -/
theorem retire_effect (s : State) : Effect s s.retire s.next s.reg s.pred s.byte :=
  ⟨rfl, fun _ => rfl, fun _ => rfl, fun _ => rfl, rfl, rfl, rfl, rfl, rfl⟩

/-! ## Results in registers and predicates -/

theorem writeReg_next {p : Option Refusal} {rt : RegNum} {v : Word} {pr : PredNum} {s t : State}
    (h : writeReg p rt v pr s = .next t) :
    p = none ∧ ((s.pred pr = true ∧ t = (s.setReg rt v).retire) ∨ (s.pred pr = false ∧ t = s.retire)) := by
  obtain ⟨hp, ⟨hg, hb⟩ | h⟩ := issue_next h
  · exact ⟨hp, .inl ⟨hg, (Host.Outcome.next.inj hb).symm⟩⟩
  · exact ⟨hp, .inr h⟩

theorem writeReg_completes {p : Option Refusal} {rt : RegNum} {v : Word} {pr : PredNum} {s : State} (hp : p = none)
    (h : s.pred pr = true) :
    ∃ t, writeReg p rt v pr s = .next t ∧ Effect s t s.next (regsWith s.reg rt v) s.pred s.byte :=
  ⟨_, issue_of_true hp h, by constructor <;> simp⟩

/-- A result in two registers: the state after both writes. -/
theorem writeBoth_effect {s : State} {p : PendReg} (hr : s.pendReg = some p) (rt : RegNum) (lo hi : Word) :
    Effect s ((s.setReg rt lo).setRegT hi).retire s.next (regsWith (regsWith s.reg rt lo) p.rt hi) s.pred s.byte := by
  have h : (s.setReg rt lo).pendReg = some p := by simp [hr]
  rw [State.setRegT_of_some h]
  constructor <;> simp [regsWith]

theorem writeProduct_next {p : Option Refusal} {rt : RegNum} {x : Int} {pr : PredNum} {s t : State}
    (h : writeProduct p rt x pr s = .next t) :
    p = none ∧
      ((s.pred pr = true ∧ t = ((s.setReg rt ((BitVec.ofInt 256 x).extractLsb' 0 128)).setRegT
          ((BitVec.ofInt 256 x).extractLsb' 128 128)).retire) ∨
        (s.pred pr = false ∧ t = s.retire)) := by
  obtain ⟨hp, ⟨hg, hb⟩ | h⟩ := issue_next h
  · exact ⟨hp, .inl ⟨hg, (Host.Outcome.next.inj hb).symm⟩⟩
  · exact ⟨hp, .inr h⟩

theorem shiftLeftExtended_next {brk : Bool} {ra rt : RegNum} {n : Nat} {pr : PredNum} {s t : State}
    (h : shiftLeftExtended brk ra rt n pr s = .next t) :
    s.pairMustReg brk pr (fitsShift rt) = none ∧
      ((s.pred pr = true ∧
          t = ((s.setReg rt ((shiftFull (s.reg ra) s.regC n).extractLsb' 128 128)).setRegT
            ((shiftFull (s.reg ra) s.regC n).extractLsb' 256 128)).retire) ∨
        (s.pred pr = false ∧ t = s.retire)) := by
  obtain ⟨hp, ⟨hg, hb⟩ | h⟩ := issue_next h
  · exact ⟨hp, .inl ⟨hg, (Host.Outcome.next.inj hb).symm⟩⟩
  · exact ⟨hp, .inr h⟩

theorem compareTo_next {k : Signedness} {rel : Rel} {pt2 pt1 : PredNum} {p : Option Refusal} {a b : Word} {pr : PredNum}
    {s t : State} (h : compareTo k rel pt2 pt1 p a b pr s = .next t) :
    s.relationUndefined rel = false ∧ sameTargets pt1 pt2 = false ∧ p = none ∧
      ((s.pred pr = true ∧ t = (s.writeTargets pt1 pt2 (relHolds rel k a b)).retire) ∨
        (s.pred pr = false ∧ t = s.retire)) := by
  unfold compareTo at h
  split at h
  · cases h
  · split at h
    · cases h
    · rename_i hu hs
      obtain ⟨hp, ⟨hg, hb⟩ | h⟩ := issue_next h
      · exact ⟨by simpa using hu, by simpa using hs, hp, .inl ⟨hg, (Host.Outcome.next.inj hb).symm⟩⟩
      · exact ⟨by simpa using hu, by simpa using hs, hp, .inr h⟩

theorem setTo_next {k : Signedness} {rel : Rel} {rt : RegNum} {p : Option Refusal} {a b : Word} {pr : PredNum}
    {s t : State} (h : setTo k rel rt p a b pr s = .next t) :
    s.relationUndefined rel = false ∧ p = none ∧
      ((s.pred pr = true ∧ t = (s.setReg rt (truthWord (relHolds rel k a b))).retire) ∨
        (s.pred pr = false ∧ t = s.retire)) := by
  unfold setTo at h
  split at h
  · cases h
  · exact ⟨by simp_all, writeReg_next h⟩

theorem branchIf_next {taken : Bool} {disp : BitVec 27} {s t : State} (h : branchIf taken disp s = .next t) :
    s.NoPrefix ∧ t = s.retireTo (if taken then s.target disp else s.next) := by
  unfold branchIf at h
  split at h
  · cases h
  · rename_i hp
    refine ⟨pairNone_eq_none.1 hp, ?_⟩
    cases taken <;> simpa [State.retire] using (Host.Outcome.next.inj h).symm

/-! ## Memory -/

theorem admitRead_eq_none {s : State} {a : Addr} {n : Nat} : s.admitRead a n = none ↔ s.MayRead a n := by
  unfold State.admitRead State.MayRead
  split
  · rename_i h; simp only [reduceCtorEq, false_iff, not_and]; exact fun h' => absurd (h' h.1) h.2
  · rename_i h
    have h' : s.launch.misaligned = .refuse → a.toNat % n = 0 := fun e => by
      by_contra hne; exact h ⟨e, hne⟩
    split
    · rename_i b hb
      simp only [reduceCtorEq, false_iff, not_and, not_forall]
      intro _
      have hm := List.mem_of_find?_eq_some hb
      have hf := List.find?_some hb
      simp only [byteAddrs, List.mem_map, List.mem_range] at hm
      obtain ⟨i, hi, rfl⟩ := hm
      exact ⟨i, hi, by simpa using hf⟩
    · rename_i hb
      simp only [true_iff]
      refine ⟨h', fun i hi => ?_⟩
      have := List.find?_eq_none.1 hb (a + BitVec.ofNat 128 i)
        (by simp only [byteAddrs, List.mem_map, List.mem_range]; exact ⟨i, hi, rfl⟩)
      simpa using this

theorem admitWrite_eq_none {s : State} {a : Addr} {n : Nat} : s.admitWrite a n = none ↔ s.MayWrite a n := by
  unfold State.admitWrite State.MayWrite
  rw [← admitRead_eq_none]
  cases h : s.admitRead a n with
  | some r => simp
  | none =>
    simp only [true_and]
    cases hb : (byteAddrs a n).find? fun b => s.launch.inText b with
    | some b =>
      simp only [reduceCtorEq, false_iff, not_forall]
      have hm := List.mem_of_find?_eq_some hb
      have hf := List.find?_some hb
      simp only [byteAddrs, List.mem_map, List.mem_range] at hm
      obtain ⟨i, hi, rfl⟩ := hm
      exact ⟨i, hi, by simpa using hf⟩
    | none =>
      simp only [true_iff]
      intro i hi
      have := List.find?_eq_none.1 hb (a + BitVec.ofNat 128 i)
        (by simp only [byteAddrs, List.mem_map, List.mem_range]; exact ⟨i, hi, rfl⟩)
      simpa using this

theorem memRead_ok {s : State} {a : Addr} {n : Nat} (h : s.MayRead a n) : s.memRead a n = .ok (loadBytes s.mem a n) := by
  simp [State.memRead, admitRead_eq_none.2 h]

theorem memWrite_ok {s : State} {a : Addr} {n : Nat} {v : Word} (h : s.MayWrite a n) :
    s.memWrite a n v = .ok { s with mem := storeBytes s.mem a v n } := by
  simp [State.memWrite, admitWrite_eq_none.2 h]

theorem load_next {e : Ext} {n : Nat} {m : AddrMode} {rt : RegNum} {p : Option Refusal} {pr : PredNum} {s t : State}
    (h : load e n m rt p pr s = .next t) :
    p = none ∧
      ((s.pred pr = true ∧ s.MayRead (m.address s) n ∧
          t = (s.setReg rt (e.extend n (loadBytes s.mem (m.address s) n))).retire) ∨
        (s.pred pr = false ∧ t = s.retire)) := by
  obtain ⟨hp, ⟨hg, hb⟩ | h⟩ := issue_next h
  · refine ⟨hp, .inl ⟨hg, ?_⟩⟩
    cases ha : s.admitRead (m.address s) n with
    | some r => simp [State.memRead, ha] at hb
    | none =>
      simp only [State.memRead, ha] at hb
      exact ⟨admitRead_eq_none.1 ha, (Host.Outcome.next.inj hb).symm⟩
  · exact ⟨hp, .inr h⟩

theorem store_next {n : Nat} {m : AddrMode} {rs : RegNum} {p : Option Refusal} {pr : PredNum} {s t : State}
    (h : store n m rs p pr s = .next t) :
    p = none ∧
      ((s.pred pr = true ∧ s.MayWrite (m.address s) n ∧
          t = State.retire { s with mem := storeBytes s.mem (m.address s) (s.reg rs) n }) ∨
        (s.pred pr = false ∧ t = s.retire)) := by
  obtain ⟨hp, ⟨hg, hb⟩ | h⟩ := issue_next h
  · refine ⟨hp, .inl ⟨hg, ?_⟩⟩
    cases ha : s.admitWrite (m.address s) n with
    | some r => simp [State.memWrite, ha] at hb
    | none =>
      simp only [State.memWrite, ha] at hb
      exact ⟨admitWrite_eq_none.1 ha, (Host.Outcome.next.inj hb).symm⟩
  · exact ⟨hp, .inr h⟩

/-! ## Prefixes -/

theorem execReg_next {brk : Bool} {rb ra rt : RegNum} {pr : PredNum} {s t : State}
    (h : execReg brk rb ra rt pr s = .next t) :
    s.cutsNext brk = false ∧ s.NoPrefix ∧ t = { s with pc := s.next, pendReg := some ⟨ra, rb, rt, pr⟩ } := by
  unfold execReg at h
  split at h
  · cases h
  · split at h
    · cases h
    · rename_i hc _ hp
      exact ⟨by simpa using hc, pairNone_eq_none.1 hp, (Host.Outcome.next.inj h).symm⟩

theorem constantChunk_next {num : ConNum} {brk : Bool} {imm : BitVec 27} {pr : PredNum} {s t : State}
    (h : constantChunk num brk imm pr s = .next t) :
    s.launch.conA = .free ∧ s.cutsNext brk = false ∧ s.pairConst brk pr = none ∧
      t = { s with pc := s.next, pendCon := some ⟨s.pendingChunks ++ [(num, imm)], pr⟩ } := by
  unfold constantChunk at h
  split at h
  · cases h
  · split at h
    · cases h
    · split at h
      · cases h
      · rename_i hr hc _ hp
        refine ⟨?_, by simpa using hc, hp, (Host.Outcome.next.inj h).symm⟩
        cases hk : s.launch.conA <;> simp_all

/-! ## The step -/

theorem refuseUnlessEarlier_ne_next {r : Refusal} {x : Result} {t : State} : refuseUnlessEarlier r x ≠ .next t := by
  cases x with
  | next s => simp [refuseUnlessEarlier]
  | fault f => simp [refuseUnlessEarlier]
  | refused r' => by_cases h : r'.place ≤ r.place <;> simp [refuseUnlessEarlier, h]

theorem runInstr_next {i : Instr} {s u : State} (h : runInstr i s = .next u) :
    s.jumpedOntoUser = false ∧ s.unfollowed i = false ∧ s.groupHazard i = false ∧ s.accessHazard i = false ∧
      ∃ t, exec i s = .next t ∧ u = s.closeStep i t := by
  unfold runInstr at h
  split at h
  · exact absurd h refuseUnlessEarlier_ne_next
  · split at h
    · exact absurd h refuseUnlessEarlier_ne_next
    · rename_i hj hg
      obtain ⟨hj, hu⟩ : s.jumpedOntoUser = false ∧ s.unfollowed i = false := by simpa using hj
      split at h
      · rename_i t ht
        split at h
        · cases h
        · rename_i ha
          exact ⟨hj, hu, by simpa using hg, by simpa using ha, t, ht, (Host.Outcome.next.inj h).symm⟩
      · cases h
      · cases h

theorem runWord_next {w : IWord} {s u : State} (h : runWord w s = .next u) :
    ∃ i, decodeWith s.launch.layoutC w = .ok i ∧ runInstr i s = .next u := by
  unfold runWord at h
  split at h
  · exact ⟨_, by assumption, h⟩
  all_goals cases h

theorem fetch_ok {s : State} {w : IWord} (h : s.fetch = .ok w) :
    s.launch.text.contains s.pc = true ∧ w = s.wordAt s.pc := by
  unfold State.fetch at h
  split at h
  · cases h
  · split at h
    · rename_i hc; exact ⟨hc, (Except.ok.inj h).symm⟩
    · cases h

/-- A fetch from populated bytes of an instruction of the launch gives its word (R66). -/
theorem fetch_of_populated {s : State} (hp : ∀ k < 5, s.launch.populated (s.pc + BitVec.ofNat 128 k) = true)
    (ht : s.launch.text.contains s.pc = true) : s.fetch = .ok (s.wordAt s.pc) := by
  unfold State.fetch
  split
  · rename_i b hb
    obtain ⟨k, hk, rfl⟩ : ∃ k < 5, s.pc + BitVec.ofNat 128 k = b := by
      simpa [byteAddrs] using List.mem_of_find?_eq_some hb
    simpa [hp k hk] using List.find?_some hb
  · simp only [ht, if_true]

/-- Everything that fetching and running one word has done when it answers a next state. -/
theorem advance_next {s u : State} (h : advance s = .next u) :
    s.fetch = .ok (s.wordAt s.pc) ∧ ∃ i t, s.decodedAt s.pc = .ok i ∧ s.jumpedOntoUser = false ∧ s.unfollowed i = false ∧
      s.groupHazard i = false ∧ s.accessHazard i = false ∧ exec i s = .next t ∧ u = s.closeStep i t := by
  unfold advance at h
  split at h
  · cases h
  · rename_i w hw
    obtain ⟨-, rfl⟩ := fetch_ok hw
    obtain ⟨i, hi, hr⟩ := runWord_next h
    obtain ⟨hj, hf, hg, ha, t, ht, hu⟩ := runInstr_next hr
    exact ⟨hw, i, t, hi, hj, hf, hg, ha, ht, hu⟩

/-! ## A prefix and its user -/

theorem awaitsUser_eq_false {s : State} : s.awaitsUser = false ↔ s.NoPrefix := by
  simp [State.awaitsUser, State.NoPrefix]

/-- Nothing pending is nothing to wait for. -/
theorem pairStop_of_noPrefix {t : State} (h : t.NoPrefix) (fuel : Nat) : pairStop fuel t = none := by
  cases fuel <;> simp [pairStop, awaitsUser_eq_false.2 h]

/-- A pending prefix that nothing stops has its next word run. -/
theorem pairStop_eq_none {fuel : Nat} {t : State} (h : pairStop fuel t = none) :
    t.NoPrefix ∨ ∃ k u, fuel = k + 1 ∧ advance t = .next u ∧ pairStop k u = none := by
  by_cases hw : t.awaitsUser = true
  · right
    cases fuel with
    | zero => simp [pairStop, hw] at h
    | succ k =>
      cases ha : advance t with
      | next u => exact ⟨k, u, rfl, rfl, by simpa [pairStop, hw, ha] using h⟩
      | fault f => simp [pairStop, hw, ha] at h
      | refused r => simp [pairStop, hw, ha] at h
  · exact .inl (awaitsUser_eq_false.1 (by simpa using hw))

/-- More fuel stops nothing. -/
theorem pairStop_mono {fuel : Nat} {t : State} (h : pairStop fuel t = none) : pairStop (fuel + 1) t = none := by
  induction fuel generalizing t with
  | zero =>
    obtain hn | ⟨k, u, hk, -, -⟩ := pairStop_eq_none h
    · exact pairStop_of_noPrefix hn 1
    · cases hk
  | succ n ih =>
    obtain hn | ⟨k, u, hk, ha, hu⟩ := pairStop_eq_none h
    · exact pairStop_of_noPrefix hn _
    · obtain rfl := Nat.succ.inj hk
      rw [pairStop]
      split
      · simp only [ha]; exact ih hu
      · rfl

/-- What stops a pair is a fault or a refusal. -/
theorem pairStop_ne_next (fuel : Nat) (t v : State) : pairStop fuel t ≠ some (.next v) := by
  induction fuel generalizing t with
  | zero => unfold pairStop; split <;> simp
  | succ n ih =>
    unfold pairStop
    split
    · split
      · exact ih _
      · simp
      · simp
    · simp

theorem settlePair_next {t u : State} (h : settlePair t = .next u) : u = t ∧ t.stopBeforeUser = none := by
  unfold settlePair at h
  unfold State.stopBeforeUser
  cases hp : pairStop t.launch.text.length t with
  | none => rw [hp] at h; exact ⟨(Host.Outcome.next.inj h).symm, rfl⟩
  | some x => rw [hp] at h; subst h; exact absurd hp (pairStop_ne_next _ _ u)

/-- Everything a step that answers a next state has done: nothing, at the end of a run; or `exec` of the instruction that
the word at the pc spells, and where that is a prefix nothing stops the words it belongs with. -/
theorem step_next {s u : State} (h : step s = .next u) :
    (s.ended = true ∧ u = s) ∨
      (s.ended = false ∧ ∃ i t, s.fetch = .ok (s.wordAt s.pc) ∧ s.decodedAt s.pc = .ok i ∧ s.Issues i ∧
        exec i s = .next t ∧ u = s.closeStep i t ∧ u.stopBeforeUser = none) := by
  unfold step at h
  split at h
  · rename_i he; exact .inl ⟨he, (Host.Outcome.next.inj h).symm⟩
  · rename_i he
    have he' : s.ended = false := by simpa using he
    split at h
    · rename_i v hv
      obtain ⟨rfl, hp⟩ := settlePair_next h
      obtain ⟨hf, i, t, hi, hj, hn, hg, ha, ht, hu⟩ := advance_next hv
      exact .inr ⟨he', i, t, hf, hi, ⟨he', hj, hn, hg, ha⟩, ht, hu, hp⟩
    · cases h
    · cases h

end Sys2Proof.Machine
end

