-- ==== Sys2Proof/Laws/Exec.lean ====
section
/-! SUPPORT. Everything `exec` can do when it answers a next state, said once over all instructions (`exec_next`): the state
it answers has one of the nine forms of `NextForm`. Statements about every instruction follow from it by cases on the form. -/

namespace Sys2Proof.Machine

/-- The instruction stores nothing. -/
def StoresNothing (i : Instr) : Prop := ∀ m n pr, memoryOperand i ≠ some (m, n, true, pr)

/-- Its guard is true, and it is neither a branch that tests its field nor a prefix. -/
structure Executed (i : Instr) (s : State) : Prop where
  guarded : i.testsField = false
  noPrefixWord : i.isPrefixWord = false
  guard : s.pred i.guardField = true

/-- The state that an instruction which completes in `s` answers. -/
inductive NextForm (i : Instr) (s : State) : State → Prop where
  /-- Its guard is false. -/
  | skipped (ht : i.testsField = false) (hp : i.isPrefixWord = false) (hg : s.pred i.guardField = false) :
      NextForm i s s.retire
  /-- It is a NOP. -/
  | nop (ht : i.testsField = false) (hp : i.isPrefixWord = false) (hs : StoresNothing i)
      (hb : (footprint s.launch i).branch = false) : NextForm i s s.retire
  /-- It writes one register. -/
  | wrote (rt : RegNum) (v : Word) (he : Executed i s) (hw : rt ∈ (footprint s.launch i).regWrites)
      (hb : (footprint s.launch i).branch = false) (hs : StoresNothing i) :
      NextForm i s (s.setReg rt v).retire
  /-- It is a user of REG and writes its target and that of a REG before it. -/
  | wroteBoth (rt : RegNum) (lo hi : Word) (he : Executed i s) (hu : i.mayUseReg = true)
      (hw : rt ∈ (footprint s.launch i).regWrites)
      (hb : (footprint s.launch i).branch = false) (hs : StoresNothing i) :
      NextForm i s ((s.setReg rt lo).setRegT hi).retire
  /-- It is a compare. -/
  | compared (pt1 pt2 : PredNum) (b : Bool) (he : Executed i s) (hc : i.isCompare = true)
      (hp : i.predTargets = some (pt1, pt2)) (hb : (footprint s.launch i).branch = false)
      (hs : StoresNothing i) : NextForm i s (s.writeTargets pt1 pt2 b).retire
  /-- It is BNZ, BZ or BRA. -/
  | branched (disp : BitVec 27) (taken : Bool) (ht : i.testsField = true) (hs : StoresNothing i)
      (hb : (footprint s.launch i).branch = true)
      (hk : (∃ brk pr, i = .bnz brk disp pr ∧ taken = s.branchNonZero pr) ∨
        (∃ brk pr, i = .bz brk disp pr ∧ taken = !s.branchNonZero pr) ∨
        ∃ brk, i = .bra brk disp ∧ taken = !s.branchNonZero 0) :
      NextForm i s (s.retireTo (if taken then s.target disp else s.next))
  /-- It is BSR or JMR. -/
  | called (r : RegNum) (a : Addr) (he : Executed i s) (hw : r ∈ (footprint s.launch i).regWrites)
      (hb : (footprint s.launch i).branch = true) (hs : StoresNothing i) :
      NextForm i s ((s.setReg r s.next).retireTo a)
  /-- It is a store. -/
  | stored (m : AddrMode) (n : Nat) (v : Word) (he : Executed i s)
      (hm : memoryOperand i = some (m, n, true, i.guardField)) (ha : s.MayWrite (m.address s) n) (hn : n ≤ 16)
      (hb : (footprint s.launch i).branch = false) :
      NextForm i s (State.retire { s with mem := storeBytes s.mem (m.address s) v n })
  /-- It is a REG. -/
  | regPending (p : PendReg) (hp : i.isPrefixWord = true) (hn : s.NoPrefix) (hs : StoresNothing i)
      (hb : (footprint s.launch i).branch = false) :
      NextForm i s { s with pc := s.next, pendReg := some p }
  /-- It is a constant prefix. -/
  | conPending (p : PendCon) (hp : i.isPrefixWord = true) (hr : s.pendReg = none) (hf : s.launch.conA = .free)
      (hs : StoresNothing i) (hb : (footprint s.launch i).branch = false) :
      NextForm i s { s with pc := s.next, pendCon := some p }

/-! ## Each shared operation gives a form -/

section
variable {i : Instr} {s t : State} {p : Option Refusal} {pr : PredNum}

theorem NextForm.ofWriteReg {rt : RegNum} {v : Word} (h : writeReg p rt v pr s = .next t) (hg : i.guardField = pr)
    (ht : i.testsField = false) (hp : i.isPrefixWord = false)
    (hw : rt ∈ (footprint s.launch i).regWrites) (hb : (footprint s.launch i).branch = false)
    (hs : StoresNothing i) : NextForm i s t := by
  subst hg
  obtain ⟨-, ⟨hg, rfl⟩ | ⟨hg, rfl⟩⟩ := writeReg_next h
  · exact .wrote rt v ⟨ht, hp, hg⟩ hw hb hs
  · exact .skipped ht hp hg

theorem NextForm.ofWriteProduct {rt : RegNum} {x : Int} (h : writeProduct p rt x pr s = .next t)
    (hg : i.guardField = pr) (ht : i.testsField = false) (hp : i.isPrefixWord = false) (hu : i.mayUseReg = true)
    (hw : rt ∈ (footprint s.launch i).regWrites) (hb : (footprint s.launch i).branch = false)
    (hs : StoresNothing i) : NextForm i s t := by
  subst hg
  obtain ⟨-, ⟨hg, rfl⟩ | ⟨hg, rfl⟩⟩ := writeProduct_next h
  · exact .wroteBoth rt _ _ ⟨ht, hp, hg⟩ hu hw hb hs
  · exact .skipped ht hp hg

theorem NextForm.ofShift {brk : Bool} {ra rt : RegNum} {n : Nat} (h : shiftLeftExtended brk ra rt n pr s = .next t)
    (hg : i.guardField = pr) (ht : i.testsField = false) (hp : i.isPrefixWord = false) (hu : i.mayUseReg = true)
    (hw : rt ∈ (footprint s.launch i).regWrites) (hb : (footprint s.launch i).branch = false)
    (hs : StoresNothing i) : NextForm i s t := by
  subst hg
  obtain ⟨-, ⟨hg, rfl⟩ | ⟨hg, rfl⟩⟩ := shiftLeftExtended_next h
  · exact .wroteBoth rt _ _ ⟨ht, hp, hg⟩ hu hw hb hs
  · exact .skipped ht hp hg

theorem NextForm.ofCompareTo {k : Signedness} {rel : Rel} {pt2 pt1 : PredNum} {a b : Word}
    (h : compareTo k rel pt2 pt1 p a b pr s = .next t) (hg : i.guardField = pr) (ht : i.testsField = false)
    (hp : i.isPrefixWord = false) (hc : i.isCompare = true) (hq : i.predTargets = some (pt1, pt2))
    (hb : (footprint s.launch i).branch = false) (hs : StoresNothing i) : NextForm i s t := by
  subst hg
  obtain ⟨-, -, -, ⟨hg, rfl⟩ | ⟨hg, rfl⟩⟩ := compareTo_next h
  · exact .compared pt1 pt2 _ ⟨ht, hp, hg⟩ hc hq hb hs
  · exact .skipped ht hp hg

theorem NextForm.ofSetTo {k : Signedness} {rel : Rel} {rt : RegNum} {a b : Word}
    (h : setTo k rel rt p a b pr s = .next t) (hg : i.guardField = pr) (ht : i.testsField = false)
    (hp : i.isPrefixWord = false) (hw : rt ∈ (footprint s.launch i).regWrites)
    (hb : (footprint s.launch i).branch = false) (hs : StoresNothing i) : NextForm i s t := by
  subst hg
  obtain ⟨-, -, ⟨hg, rfl⟩ | ⟨hg, rfl⟩⟩ := setTo_next h
  · exact .wrote rt _ ⟨ht, hp, hg⟩ hw hb hs
  · exact .skipped ht hp hg

theorem NextForm.ofLoad {e : Ext} {n : Nat} {m : AddrMode} {rt : RegNum} (h : load e n m rt p pr s = .next t)
    (hg : i.guardField = pr) (ht : i.testsField = false) (hp : i.isPrefixWord = false)
    (hw : rt ∈ (footprint s.launch i).regWrites) (hb : (footprint s.launch i).branch = false)
    (hs : StoresNothing i) : NextForm i s t := by
  subst hg
  obtain ⟨-, ⟨hg, -, rfl⟩ | ⟨hg, rfl⟩⟩ := load_next h
  · exact .wrote rt _ ⟨ht, hp, hg⟩ hw hb hs
  · exact .skipped ht hp hg

theorem NextForm.ofStore {n : Nat} {m : AddrMode} {rs : RegNum} (h : store n m rs p pr s = .next t)
    (hg : i.guardField = pr) (ht : i.testsField = false) (hp : i.isPrefixWord = false)
    (hm : memoryOperand i = some (m, n, true, pr)) (hn : n ≤ 16)
    (hb : (footprint s.launch i).branch = false) : NextForm i s t := by
  subst hg
  obtain ⟨-, ⟨hg, ha, rfl⟩ | ⟨hg, rfl⟩⟩ := store_next h
  · exact .stored m n _ ⟨ht, hp, hg⟩ hm ha hn hb
  · exact .skipped ht hp hg

theorem NextForm.ofConstantChunk {num : ConNum} {brk : Bool} {imm : BitVec 27} (h : constantChunk num brk imm pr s = .next t)
    (hp : i.isPrefixWord = true) (hs : StoresNothing i) (hb : (footprint s.launch i).branch = false) :
    NextForm i s t := by
  obtain ⟨hf, -, hc, rfl⟩ := constantChunk_next h
  exact .conPending _ hp (pairConst_eq_none.1 hc).1 hf hs hb

end

/-- Everything an instruction can do when it answers a next state. -/
theorem exec_next {i : Instr} {s t : State} (h : exec i s = .next t) : NextForm i s t := by
  have none : ∀ {j : Instr}, memoryOperand j = Option.none → StoresNothing j := fun h m n pr => by simp [h]
  have some : ∀ {j : Instr} {m n pr}, memoryOperand j = Option.some (m, n, false, pr) → StoresNothing j :=
    fun h m n pr => by simp [h]
  have stop : ∀ {j : Instr} {r : Refusal}, (Host.Outcome.refused r : Result) = .next t → NextForm j s t :=
    fun h => nomatch h
  cases i with
  | sys _ _ => exact stop h
  | mod _ _ => exact stop h
  | flt _ _ => exact stop h
  | addi brk imm ra rt pr => exact .ofWriteReg h (packRI_pr _ _ _ _ _ _) rfl rfl (List.mem_singleton.2 rfl) rfl (none rfl)
  | subfi brk imm ra rt pr => exact .ofWriteReg h (packRI_pr _ _ _ _ _ _) rfl rfl (List.mem_singleton.2 rfl) rfl (none rfl)
  | andi brk imm ra rt pr => exact .ofWriteReg h (packRI_pr _ _ _ _ _ _) rfl rfl (List.mem_singleton.2 rfl) rfl (none rfl)
  | ori brk imm ra rt pr => exact .ofWriteReg h (packRI_pr _ _ _ _ _ _) rfl rfl (List.mem_singleton.2 rfl) rfl (none rfl)
  | xori brk imm ra rt pr => exact .ofWriteReg h (packRI_pr _ _ _ _ _ _) rfl rfl (List.mem_singleton.2 rfl) rfl (none rfl)
  | muli brk imm ra rt pr => exact .ofWriteProduct h (packRI_pr _ _ _ _ _ _) rfl rfl rfl (List.mem_singleton.2 rfl) rfl (none rfl)
  | bnz brk disp pr =>
    obtain ⟨-, rfl⟩ := branchIf_next h
    exact .branched _ _ rfl (none rfl) rfl (.inl ⟨_, _, rfl, rfl⟩)
  | bz brk disp pr =>
    obtain ⟨-, rfl⟩ := branchIf_next h
    exact .branched _ _ rfl (none rfl) rfl (.inr (.inl ⟨_, _, rfl, rfl⟩))
  | bra brk disp =>
    obtain ⟨-, rfl⟩ := branchIf_next h
    exact .branched _ _ rfl (none rfl) rfl (.inr (.inr ⟨_, rfl, rfl⟩))
  | bsr brk disp pr =>
    have hg : Instr.guardField (.bsr brk disp pr) = pr := packBr_pr _ _ _ _
    obtain ⟨-, ⟨hp, hb⟩ | ⟨hp, rfl⟩⟩ := issue_next h
    · obtain rfl := Host.Outcome.next.inj hb
      exact .called _ _ ⟨rfl, rfl, (congrArg s.pred hg).trans hp⟩ (List.mem_singleton.2 rfl) rfl (none rfl)
    · exact .skipped rfl rfl ((congrArg s.pred hg).trans hp)
  | cmp brk rel pt2 pt1 rb ra pr => exact .ofCompareTo h (packCmp_pr _ _ _ _ _ _ _ _) rfl rfl rfl rfl rfl (none rfl)
  | cmpu brk rel pt2 pt1 rb ra pr => exact .ofCompareTo h (packCmp_pr _ _ _ _ _ _ _ _) rfl rfl rfl rfl rfl (none rfl)
  | fcmp _ _ _ _ _ _ _ => exact stop h
  | cmp19 _ _ _ _ _ _ _ => exact stop h
  | cmpi brk rel pt2 pt1 imm ra pr => exact .ofCompareTo h (packCmp_pr _ _ _ _ _ _ _ _) rfl rfl rfl rfl rfl (none rfl)
  | cmpui brk rel pt2 pt1 imm ra pr => exact .ofCompareTo h (packCmp_pr _ _ _ _ _ _ _ _) rfl rfl rfl rfl rfl (none rfl)
  | fcmpi _ _ _ _ _ _ _ => exact stop h
  | cmpi23 _ _ _ _ _ _ _ => exact stop h
  | fdp _ _ => exact stop h
  | ffdp _ _ => exact stop h
  | seti brk rel imm ra rt pr => exact .ofSetTo h (packSetI_pr _ _ _ _ _ _ _) rfl rfl (List.mem_singleton.2 rfl) rfl (none rfl)
  | setui brk rel imm ra rt pr => exact .ofSetTo h (packSetI_pr _ _ _ _ _ _ _) rfl rfl (List.mem_singleton.2 rfl) rfl (none rfl)
  | fseti _ _ _ _ _ _ => exact stop h
  | ldb brk imm ra rt pr => exact .ofLoad h (packRI_pr _ _ _ _ _ _) rfl rfl (List.mem_singleton.2 rfl) rfl (some rfl)
  | ldbu brk imm ra rt pr => exact .ofLoad h (packRI_pr _ _ _ _ _ _) rfl rfl (List.mem_singleton.2 rfl) rfl (some rfl)
  | ldw brk imm ra rt pr => exact .ofLoad h (packRI_pr _ _ _ _ _ _) rfl rfl (List.mem_singleton.2 rfl) rfl (some rfl)
  | ldwu brk imm ra rt pr => exact .ofLoad h (packRI_pr _ _ _ _ _ _) rfl rfl (List.mem_singleton.2 rfl) rfl (some rfl)
  | ldt brk imm ra rt pr => exact .ofLoad h (packRI_pr _ _ _ _ _ _) rfl rfl (List.mem_singleton.2 rfl) rfl (some rfl)
  | ldtu brk imm ra rt pr => exact .ofLoad h (packRI_pr _ _ _ _ _ _) rfl rfl (List.mem_singleton.2 rfl) rfl (some rfl)
  | ldo brk imm ra rt pr => exact .ofLoad h (packRI_pr _ _ _ _ _ _) rfl rfl (List.mem_singleton.2 rfl) rfl (some rfl)
  | ldou brk imm ra rt pr => exact .ofLoad h (packRI_pr _ _ _ _ _ _) rfl rfl (List.mem_singleton.2 rfl) rfl (some rfl)
  | ldh brk imm ra rt pr => exact .ofLoad h (packRI_pr _ _ _ _ _ _) rfl rfl (List.mem_singleton.2 rfl) rfl (some rfl)
  | ldhr _ _ _ _ _ => exact stop h
  | stb brk imm ra rs pr => exact .ofStore h (packRI_pr _ _ _ _ _ _) rfl rfl rfl (by decide) rfl
  | stw brk imm ra rs pr => exact .ofStore h (packRI_pr _ _ _ _ _ _) rfl rfl rfl (by decide) rfl
  | stt brk imm ra rs pr => exact .ofStore h (packRI_pr _ _ _ _ _ _) rfl rfl rfl (by decide) rfl
  | sto brk imm ra rs pr => exact .ofStore h (packRI_pr _ _ _ _ _ _) rfl rfl rfl (by decide) rfl
  | sth brk imm ra rs pr => exact .ofStore h (packRI_pr _ _ _ _ _ _) rfl rfl rfl (by decide) rfl
  | sthc _ _ _ _ _ => exact stop h
  | con4 brk imm pr => exact .ofConstantChunk h rfl (none rfl) rfl
  | nop brk ignored =>
    change (match s.pairNone with
      | Option.some r => Host.Outcome.refused r
      | Option.none => .next s.retire) = .next t at h
    split at h
    · cases h
    · obtain rfl := Host.Outcome.next.inj h
      exact .nop rfl rfl (none rfl) rfl
  | con1 brk imm pr => exact .ofConstantChunk h rfl (none rfl) rfl
  | con2 brk imm pr => exact .ofConstantChunk h rfl (none rfl) rfl
  | con3 brk imm pr => exact .ofConstantChunk h rfl (none rfl) rfl
  | sll brk rb ra rt pr => exact .ofWriteReg h (packR2_pr _ _ _ _ _ _ _) rfl rfl (List.mem_singleton.2 rfl) rfl (none rfl)
  | slli brk imm ra rt pr => exact .ofWriteReg h (packShiftI_pr _ _ _ _ _ _ _) rfl rfl (List.mem_singleton.2 rfl) rfl (none rfl)
  | sllE brk rb ra rt pr => exact .ofShift h (packR2_pr _ _ _ _ _ _ _) rfl rfl rfl (List.mem_singleton.2 rfl) rfl (none rfl)
  | sllEi brk imm ra rt pr => exact .ofShift h (packShiftI_pr _ _ _ _ _ _ _) rfl rfl rfl (List.mem_singleton.2 rfl) rfl (none rfl)
  | srl brk rb ra rt pr => exact .ofWriteReg h (packR2_pr _ _ _ _ _ _ _) rfl rfl (List.mem_singleton.2 rfl) rfl (none rfl)
  | srli brk imm ra rt pr => exact .ofWriteReg h (packShiftI_pr _ _ _ _ _ _ _) rfl rfl (List.mem_singleton.2 rfl) rfl (none rfl)
  | srlE _ _ _ _ _ => exact stop h
  | srlEi _ _ _ _ _ => exact stop h
  | sra brk rb ra rt pr => exact .ofWriteReg h (packR2_pr _ _ _ _ _ _ _) rfl rfl (List.mem_singleton.2 rfl) rfl (none rfl)
  | srai brk imm ra rt pr => exact .ofWriteReg h (packShiftI_pr _ _ _ _ _ _ _) rfl rfl (List.mem_singleton.2 rfl) rfl (none rfl)
  | sraE _ _ _ _ _ => exact stop h
  | sraEi _ _ _ _ _ => exact stop h
  | add brk rb ra rt pr => exact .ofWriteReg h (packR2_pr _ _ _ _ _ _ _) rfl rfl (List.mem_singleton.2 rfl) rfl (none rfl)
  | sub brk rb ra rt pr => exact .ofWriteReg h (packR2_pr _ _ _ _ _ _ _) rfl rfl (List.mem_singleton.2 rfl) rfl (none rfl)
  | and brk rb ra rt pr => exact .ofWriteReg h (packR2_pr _ _ _ _ _ _ _) rfl rfl (List.mem_singleton.2 rfl) rfl (none rfl)
  | or brk rb ra rt pr => exact .ofWriteReg h (packR2_pr _ _ _ _ _ _ _) rfl rfl (List.mem_singleton.2 rfl) rfl (none rfl)
  | xor brk rb ra rt pr => exact .ofWriteReg h (packR2_pr _ _ _ _ _ _ _) rfl rfl (List.mem_singleton.2 rfl) rfl (none rfl)
  | mulS brk rb ra rt pr => exact .ofWriteProduct h (packR2_pr _ _ _ _ _ _ _) rfl rfl rfl (List.mem_singleton.2 rfl) rfl (none rfl)
  | mulU brk rb ra rt pr => exact .ofWriteProduct h (packR2_pr _ _ _ _ _ _ _) rfl rfl rfl (List.mem_singleton.2 rfl) rfl (none rfl)
  | mulSu brk rb ra rt pr => exact .ofWriteProduct h (packR2_pr _ _ _ _ _ _ _) rfl rfl rfl (List.mem_singleton.2 rfl) rfl (none rfl)
  | mulOp4 brk rb ra rt pr => exact .ofWriteProduct h (packR2_pr _ _ _ _ _ _ _) rfl rfl rfl (List.mem_singleton.2 rfl) rfl (none rfl)
  | mulOp5 brk rb ra rt pr => exact .ofWriteProduct h (packR2_pr _ _ _ _ _ _ _) rfl rfl rfl (List.mem_singleton.2 rfl) rfl (none rfl)
  | mulOp6 brk rb ra rt pr => exact .ofWriteProduct h (packR2_pr _ _ _ _ _ _ _) rfl rfl rfl (List.mem_singleton.2 rfl) rfl (none rfl)
  | mulOp7 brk rb ra rt pr => exact .ofWriteProduct h (packR2_pr _ _ _ _ _ _ _) rfl rfl rfl (List.mem_singleton.2 rfl) rfl (none rfl)
  | jmr brk ra rt pr =>
    have hg : Instr.guardField (.jmr brk ra rt pr) = pr := packR2_pr _ _ _ _ _ _ _
    obtain ⟨-, ⟨hp, hb⟩ | ⟨hp, rfl⟩⟩ := issue_next h
    · obtain rfl := Host.Outcome.next.inj hb
      exact .called _ _ ⟨rfl, rfl, (congrArg s.pred hg).trans hp⟩ (List.mem_singleton.2 rfl) rfl (none rfl)
    · exact .skipped rfl rfl ((congrArg s.pred hg).trans hp)
  | nand brk rb ra rt pr => exact .ofWriteReg h (packR2_pr _ _ _ _ _ _ _) rfl rfl (List.mem_singleton.2 rfl) rfl (none rfl)
  | nor brk rb ra rt pr => exact .ofWriteReg h (packR2_pr _ _ _ _ _ _ _) rfl rfl (List.mem_singleton.2 rfl) rfl (none rfl)
  | xnor brk rb ra rt pr => exact .ofWriteReg h (packR2_pr _ _ _ _ _ _ _) rfl rfl (List.mem_singleton.2 rfl) rfl (none rfl)
  | set brk rel rb ra rt pr => exact .ofSetTo h (packR2_pr _ _ _ _ _ _ _) rfl rfl (List.mem_singleton.2 rfl) rfl (none rfl)
  | setu brk rel rb ra rt pr => exact .ofSetTo h (packR2_pr _ _ _ _ _ _ _) rfl rfl (List.mem_singleton.2 rfl) rfl (none rfl)
  | fset _ _ _ _ _ _ => exact stop h
  | ldbx brk rb ra rt pr => exact .ofLoad h (packR2_pr _ _ _ _ _ _ _) rfl rfl (List.mem_singleton.2 rfl) rfl (some rfl)
  | ldbux brk rb ra rt pr => exact .ofLoad h (packR2_pr _ _ _ _ _ _ _) rfl rfl (List.mem_singleton.2 rfl) rfl (some rfl)
  | ldwx brk rb ra rt pr => exact .ofLoad h (packR2_pr _ _ _ _ _ _ _) rfl rfl (List.mem_singleton.2 rfl) rfl (some rfl)
  | ldwux brk rb ra rt pr => exact .ofLoad h (packR2_pr _ _ _ _ _ _ _) rfl rfl (List.mem_singleton.2 rfl) rfl (some rfl)
  | ldtx brk rb ra rt pr => exact .ofLoad h (packR2_pr _ _ _ _ _ _ _) rfl rfl (List.mem_singleton.2 rfl) rfl (some rfl)
  | ldtux brk rb ra rt pr => exact .ofLoad h (packR2_pr _ _ _ _ _ _ _) rfl rfl (List.mem_singleton.2 rfl) rfl (some rfl)
  | ldox brk rb ra rt pr => exact .ofLoad h (packR2_pr _ _ _ _ _ _ _) rfl rfl (List.mem_singleton.2 rfl) rfl (some rfl)
  | ldoux brk rb ra rt pr => exact .ofLoad h (packR2_pr _ _ _ _ _ _ _) rfl rfl (List.mem_singleton.2 rfl) rfl (some rfl)
  | ldhx brk rb ra rt pr => exact .ofLoad h (packR2_pr _ _ _ _ _ _ _) rfl rfl (List.mem_singleton.2 rfl) rfl (some rfl)
  | ldhrx _ _ _ _ _ _ => exact stop h
  | ldchk _ _ _ _ _ _ => exact stop h
  | stbx brk ra rs pr => exact .ofStore h (packR2_pr _ _ _ _ _ _ _) rfl rfl rfl (by decide) rfl
  | stwx brk ra rs pr => exact .ofStore h (packR2_pr _ _ _ _ _ _ _) rfl rfl rfl (by decide) rfl
  | sttx brk ra rs pr => exact .ofStore h (packR2_pr _ _ _ _ _ _ _) rfl rfl rfl (by decide) rfl
  | stox brk ra rs pr => exact .ofStore h (packR2_pr _ _ _ _ _ _ _) rfl rfl rfl (by decide) rfl
  | sthx brk ra rs pr => exact .ofStore h (packR2_pr _ _ _ _ _ _ _) rfl rfl rfl (by decide) rfl
  | sthcx _ _ _ _ _ _ => exact stop h
  | reg brk rb ra rt pr =>
    obtain ⟨-, hn, rfl⟩ := execReg_next h
    exact .regPending _ rfl hn (none rfl) rfl
  | csr _ _ _ _ _ _ => exact stop h
  | carry _ _ _ _ _ _ _ _ _ _ => exact stop h

end Sys2Proof.Machine
end

