-- ==== Sys2Proof/Laws/PerInstr.lean ====
section
/-! SUPPORT. Statements about every instruction as syntax, one lemma for each constructor: bit 39 of its word is B (R82). -/

namespace Sys2Proof.Laws.BreakBit

/-- Bit 39 of the instruction's word is its B (R82), and 0 in a Layout C word (R103). -/
def Statement (i : Instr) : Prop := brkOf (encode i) = i.brk

theorem sys (brk : Bool) (rest : BitVec 33) :
    Statement (.sys brk rest) := packRest_brk _ _ _

theorem mod (brk : Bool) (rest : BitVec 33) :
    Statement (.mod brk rest) := packRest_brk _ _ _

theorem flt (brk : Bool) (rest : BitVec 33) :
    Statement (.flt brk rest) := packRest_brk _ _ _

theorem addi (brk : Bool) (imm : BitVec 15) (ra rt : RegNum) (pr : PredNum) :
    Statement (.addi brk imm ra rt pr) := packRI_brk _ _ _ _ _ _

theorem subfi (brk : Bool) (imm : BitVec 15) (ra rt : RegNum) (pr : PredNum) :
    Statement (.subfi brk imm ra rt pr) := packRI_brk _ _ _ _ _ _

theorem andi (brk : Bool) (imm : BitVec 15) (ra rt : RegNum) (pr : PredNum) :
    Statement (.andi brk imm ra rt pr) := packRI_brk _ _ _ _ _ _

theorem ori (brk : Bool) (imm : BitVec 15) (ra rt : RegNum) (pr : PredNum) :
    Statement (.ori brk imm ra rt pr) := packRI_brk _ _ _ _ _ _

theorem xori (brk : Bool) (imm : BitVec 15) (ra rt : RegNum) (pr : PredNum) :
    Statement (.xori brk imm ra rt pr) := packRI_brk _ _ _ _ _ _

theorem muli (brk : Bool) (imm : BitVec 15) (ra rt : RegNum) (pr : PredNum) :
    Statement (.muli brk imm ra rt pr) := packRI_brk _ _ _ _ _ _

theorem bnz (brk : Bool) (disp : BitVec 27) (pr : PredNum) :
    Statement (.bnz brk disp pr) := packBr_brk _ _ _ _

theorem bz (brk : Bool) (disp : BitVec 27) (pr : PredNum) :
    Statement (.bz brk disp pr) := packBr_brk _ _ _ _

theorem bra (brk : Bool) (disp : BitVec 27) :
    Statement (.bra brk disp) := packBr_brk _ _ _ _

theorem bsr (brk : Bool) (disp : BitVec 27) (pr : PredNum) :
    Statement (.bsr brk disp pr) := packBr_brk _ _ _ _

theorem cmp (brk : Bool) (rel : Rel) (pt2 pt1 : PredNum) (rb ra : RegNum) (pr : PredNum) :
    Statement (.cmp brk rel pt2 pt1 rb ra pr) := packCmp_brk _ _ _ _ _ _ _ _

theorem cmpu (brk : Bool) (rel : Rel) (pt2 pt1 : PredNum) (rb ra : RegNum) (pr : PredNum) :
    Statement (.cmpu brk rel pt2 pt1 rb ra pr) := packCmp_brk _ _ _ _ _ _ _ _

theorem fcmp (brk : Bool) (op3 : BitVec 3) (pt2 pt1 : PredNum) (rb ra : RegNum) (pr : PredNum) :
    Statement (.fcmp brk op3 pt2 pt1 rb ra pr) := packCmp_brk _ _ _ _ _ _ _ _

theorem cmp19 (brk : Bool) (op3 : BitVec 3) (pt2 pt1 : PredNum) (rb ra : RegNum) (pr : PredNum) :
    Statement (.cmp19 brk op3 pt2 pt1 rb ra pr) := packCmp_brk _ _ _ _ _ _ _ _

theorem cmpi (brk : Bool) (rel : Rel) (pt2 pt1 : PredNum) (imm : BitVec 6) (ra : RegNum) (pr : PredNum) :
    Statement (.cmpi brk rel pt2 pt1 imm ra pr) := packCmp_brk _ _ _ _ _ _ _ _

theorem cmpui (brk : Bool) (rel : Rel) (pt2 pt1 : PredNum) (imm : BitVec 6) (ra : RegNum) (pr : PredNum) :
    Statement (.cmpui brk rel pt2 pt1 imm ra pr) := packCmp_brk _ _ _ _ _ _ _ _

theorem fcmpi (brk : Bool) (op3 : BitVec 3) (pt2 pt1 : PredNum) (imm : BitVec 6) (ra : RegNum) (pr : PredNum) :
    Statement (.fcmpi brk op3 pt2 pt1 imm ra pr) := packCmp_brk _ _ _ _ _ _ _ _

theorem cmpi23 (brk : Bool) (op3 : BitVec 3) (pt2 pt1 : PredNum) (imm : BitVec 6) (ra : RegNum) (pr : PredNum) :
    Statement (.cmpi23 brk op3 pt2 pt1 imm ra pr) := packCmp_brk _ _ _ _ _ _ _ _

theorem fdp (brk : Bool) (rest : BitVec 33) :
    Statement (.fdp brk rest) := packRest_brk _ _ _

theorem ffdp (brk : Bool) (rest : BitVec 33) :
    Statement (.ffdp brk rest) := packRest_brk _ _ _

theorem seti (brk : Bool) (rel : Rel) (imm : BitVec 12) (ra rt : RegNum) (pr : PredNum) :
    Statement (.seti brk rel imm ra rt pr) := packSetI_brk _ _ _ _ _ _ _

theorem setui (brk : Bool) (rel : Rel) (imm : BitVec 12) (ra rt : RegNum) (pr : PredNum) :
    Statement (.setui brk rel imm ra rt pr) := packSetI_brk _ _ _ _ _ _ _

theorem fseti (brk : Bool) (op3 : BitVec 3) (imm : BitVec 12) (ra rt : RegNum) (pr : PredNum) :
    Statement (.fseti brk op3 imm ra rt pr) := packSetI_brk _ _ _ _ _ _ _

theorem ldb (brk : Bool) (imm : BitVec 15) (ra rt : RegNum) (pr : PredNum) :
    Statement (.ldb brk imm ra rt pr) := packRI_brk _ _ _ _ _ _

theorem ldbu (brk : Bool) (imm : BitVec 15) (ra rt : RegNum) (pr : PredNum) :
    Statement (.ldbu brk imm ra rt pr) := packRI_brk _ _ _ _ _ _

theorem ldw (brk : Bool) (imm : BitVec 15) (ra rt : RegNum) (pr : PredNum) :
    Statement (.ldw brk imm ra rt pr) := packRI_brk _ _ _ _ _ _

theorem ldwu (brk : Bool) (imm : BitVec 15) (ra rt : RegNum) (pr : PredNum) :
    Statement (.ldwu brk imm ra rt pr) := packRI_brk _ _ _ _ _ _

theorem ldt (brk : Bool) (imm : BitVec 15) (ra rt : RegNum) (pr : PredNum) :
    Statement (.ldt brk imm ra rt pr) := packRI_brk _ _ _ _ _ _

theorem ldtu (brk : Bool) (imm : BitVec 15) (ra rt : RegNum) (pr : PredNum) :
    Statement (.ldtu brk imm ra rt pr) := packRI_brk _ _ _ _ _ _

theorem ldo (brk : Bool) (imm : BitVec 15) (ra rt : RegNum) (pr : PredNum) :
    Statement (.ldo brk imm ra rt pr) := packRI_brk _ _ _ _ _ _

theorem ldou (brk : Bool) (imm : BitVec 15) (ra rt : RegNum) (pr : PredNum) :
    Statement (.ldou brk imm ra rt pr) := packRI_brk _ _ _ _ _ _

theorem ldh (brk : Bool) (imm : BitVec 15) (ra rt : RegNum) (pr : PredNum) :
    Statement (.ldh brk imm ra rt pr) := packRI_brk _ _ _ _ _ _

theorem ldhr (brk : Bool) (imm : BitVec 15) (ra rt : RegNum) (pr : PredNum) :
    Statement (.ldhr brk imm ra rt pr) := packRI_brk _ _ _ _ _ _

theorem stb (brk : Bool) (imm : BitVec 15) (ra rs : RegNum) (pr : PredNum) :
    Statement (.stb brk imm ra rs pr) := packRI_brk _ _ _ _ _ _

theorem stw (brk : Bool) (imm : BitVec 15) (ra rs : RegNum) (pr : PredNum) :
    Statement (.stw brk imm ra rs pr) := packRI_brk _ _ _ _ _ _

theorem stt (brk : Bool) (imm : BitVec 15) (ra rs : RegNum) (pr : PredNum) :
    Statement (.stt brk imm ra rs pr) := packRI_brk _ _ _ _ _ _

theorem sto (brk : Bool) (imm : BitVec 15) (ra rs : RegNum) (pr : PredNum) :
    Statement (.sto brk imm ra rs pr) := packRI_brk _ _ _ _ _ _

theorem sth (brk : Bool) (imm : BitVec 15) (ra rs : RegNum) (pr : PredNum) :
    Statement (.sth brk imm ra rs pr) := packRI_brk _ _ _ _ _ _

theorem sthc (brk : Bool) (imm : BitVec 15) (ra rs : RegNum) (pr : PredNum) :
    Statement (.sthc brk imm ra rs pr) := packRI_brk _ _ _ _ _ _

theorem con4 (brk : Bool) (imm : BitVec 27) (pr : PredNum) :
    Statement (.con4 brk imm pr) := packBr_brk _ _ _ _

theorem nop (brk : Bool) (ignored : BitVec 33) :
    Statement (.nop brk ignored) := packRest_brk _ _ _

theorem con1 (brk : Bool) (imm : BitVec 27) (pr : PredNum) :
    Statement (.con1 brk imm pr) := packBr_brk _ _ _ _

theorem con2 (brk : Bool) (imm : BitVec 27) (pr : PredNum) :
    Statement (.con2 brk imm pr) := packBr_brk _ _ _ _

theorem con3 (brk : Bool) (imm : BitVec 27) (pr : PredNum) :
    Statement (.con3 brk imm pr) := packBr_brk _ _ _ _

theorem sll (brk : Bool) (rb ra rt : RegNum) (pr : PredNum) :
    Statement (.sll brk rb ra rt pr) := packR2_brk _ _ _ _ _ _ _

theorem slli (brk : Bool) (imm : BitVec 7) (ra rt : RegNum) (pr : PredNum) :
    Statement (.slli brk imm ra rt pr) := packShiftI_brk _ _ _ _ _ _ _

theorem sllE (brk : Bool) (rb ra rt : RegNum) (pr : PredNum) :
    Statement (.sllE brk rb ra rt pr) := packR2_brk _ _ _ _ _ _ _

theorem sllEi (brk : Bool) (imm : BitVec 7) (ra rt : RegNum) (pr : PredNum) :
    Statement (.sllEi brk imm ra rt pr) := packShiftI_brk _ _ _ _ _ _ _

theorem srl (brk : Bool) (rb ra rt : RegNum) (pr : PredNum) :
    Statement (.srl brk rb ra rt pr) := packR2_brk _ _ _ _ _ _ _

theorem srli (brk : Bool) (imm : BitVec 7) (ra rt : RegNum) (pr : PredNum) :
    Statement (.srli brk imm ra rt pr) := packShiftI_brk _ _ _ _ _ _ _

theorem srlE (brk : Bool) (rb ra rt : RegNum) (pr : PredNum) :
    Statement (.srlE brk rb ra rt pr) := packR2_brk _ _ _ _ _ _ _

theorem srlEi (brk : Bool) (imm : BitVec 7) (ra rt : RegNum) (pr : PredNum) :
    Statement (.srlEi brk imm ra rt pr) := packShiftI_brk _ _ _ _ _ _ _

theorem sra (brk : Bool) (rb ra rt : RegNum) (pr : PredNum) :
    Statement (.sra brk rb ra rt pr) := packR2_brk _ _ _ _ _ _ _

theorem srai (brk : Bool) (imm : BitVec 7) (ra rt : RegNum) (pr : PredNum) :
    Statement (.srai brk imm ra rt pr) := packShiftI_brk _ _ _ _ _ _ _

theorem sraE (brk : Bool) (rb ra rt : RegNum) (pr : PredNum) :
    Statement (.sraE brk rb ra rt pr) := packR2_brk _ _ _ _ _ _ _

theorem sraEi (brk : Bool) (imm : BitVec 7) (ra rt : RegNum) (pr : PredNum) :
    Statement (.sraEi brk imm ra rt pr) := packShiftI_brk _ _ _ _ _ _ _

theorem add (brk : Bool) (rb ra rt : RegNum) (pr : PredNum) :
    Statement (.add brk rb ra rt pr) := packR2_brk _ _ _ _ _ _ _

theorem sub (brk : Bool) (rb ra rt : RegNum) (pr : PredNum) :
    Statement (.sub brk rb ra rt pr) := packR2_brk _ _ _ _ _ _ _

theorem and (brk : Bool) (rb ra rt : RegNum) (pr : PredNum) :
    Statement (.and brk rb ra rt pr) := packR2_brk _ _ _ _ _ _ _

theorem or (brk : Bool) (rb ra rt : RegNum) (pr : PredNum) :
    Statement (.or brk rb ra rt pr) := packR2_brk _ _ _ _ _ _ _

theorem xor (brk : Bool) (rb ra rt : RegNum) (pr : PredNum) :
    Statement (.xor brk rb ra rt pr) := packR2_brk _ _ _ _ _ _ _

theorem mulS (brk : Bool) (rb ra rt : RegNum) (pr : PredNum) :
    Statement (.mulS brk rb ra rt pr) := packR2_brk _ _ _ _ _ _ _

theorem mulU (brk : Bool) (rb ra rt : RegNum) (pr : PredNum) :
    Statement (.mulU brk rb ra rt pr) := packR2_brk _ _ _ _ _ _ _

theorem mulSu (brk : Bool) (rb ra rt : RegNum) (pr : PredNum) :
    Statement (.mulSu brk rb ra rt pr) := packR2_brk _ _ _ _ _ _ _

theorem mulOp4 (brk : Bool) (rb ra rt : RegNum) (pr : PredNum) :
    Statement (.mulOp4 brk rb ra rt pr) := packR2_brk _ _ _ _ _ _ _

theorem mulOp5 (brk : Bool) (rb ra rt : RegNum) (pr : PredNum) :
    Statement (.mulOp5 brk rb ra rt pr) := packR2_brk _ _ _ _ _ _ _

theorem mulOp6 (brk : Bool) (rb ra rt : RegNum) (pr : PredNum) :
    Statement (.mulOp6 brk rb ra rt pr) := packR2_brk _ _ _ _ _ _ _

theorem mulOp7 (brk : Bool) (rb ra rt : RegNum) (pr : PredNum) :
    Statement (.mulOp7 brk rb ra rt pr) := packR2_brk _ _ _ _ _ _ _

theorem jmr (brk : Bool) (ra rt : RegNum) (pr : PredNum) :
    Statement (.jmr brk ra rt pr) := packR2_brk _ _ _ _ _ _ _

theorem nand (brk : Bool) (rb ra rt : RegNum) (pr : PredNum) :
    Statement (.nand brk rb ra rt pr) := packR2_brk _ _ _ _ _ _ _

theorem nor (brk : Bool) (rb ra rt : RegNum) (pr : PredNum) :
    Statement (.nor brk rb ra rt pr) := packR2_brk _ _ _ _ _ _ _

theorem xnor (brk : Bool) (rb ra rt : RegNum) (pr : PredNum) :
    Statement (.xnor brk rb ra rt pr) := packR2_brk _ _ _ _ _ _ _

theorem set (brk : Bool) (rel : Rel) (rb ra rt : RegNum) (pr : PredNum) :
    Statement (.set brk rel rb ra rt pr) := packR2_brk _ _ _ _ _ _ _

theorem setu (brk : Bool) (rel : Rel) (rb ra rt : RegNum) (pr : PredNum) :
    Statement (.setu brk rel rb ra rt pr) := packR2_brk _ _ _ _ _ _ _

theorem fset (brk : Bool) (op3 : BitVec 3) (rb ra rt : RegNum) (pr : PredNum) :
    Statement (.fset brk op3 rb ra rt pr) := packR2_brk _ _ _ _ _ _ _

theorem ldbx (brk : Bool) (rb ra rt : RegNum) (pr : PredNum) :
    Statement (.ldbx brk rb ra rt pr) := packR2_brk _ _ _ _ _ _ _

theorem ldbux (brk : Bool) (rb ra rt : RegNum) (pr : PredNum) :
    Statement (.ldbux brk rb ra rt pr) := packR2_brk _ _ _ _ _ _ _

theorem ldwx (brk : Bool) (rb ra rt : RegNum) (pr : PredNum) :
    Statement (.ldwx brk rb ra rt pr) := packR2_brk _ _ _ _ _ _ _

theorem ldwux (brk : Bool) (rb ra rt : RegNum) (pr : PredNum) :
    Statement (.ldwux brk rb ra rt pr) := packR2_brk _ _ _ _ _ _ _

theorem ldtx (brk : Bool) (rb ra rt : RegNum) (pr : PredNum) :
    Statement (.ldtx brk rb ra rt pr) := packR2_brk _ _ _ _ _ _ _

theorem ldtux (brk : Bool) (rb ra rt : RegNum) (pr : PredNum) :
    Statement (.ldtux brk rb ra rt pr) := packR2_brk _ _ _ _ _ _ _

theorem ldox (brk : Bool) (rb ra rt : RegNum) (pr : PredNum) :
    Statement (.ldox brk rb ra rt pr) := packR2_brk _ _ _ _ _ _ _

theorem ldoux (brk : Bool) (rb ra rt : RegNum) (pr : PredNum) :
    Statement (.ldoux brk rb ra rt pr) := packR2_brk _ _ _ _ _ _ _

theorem ldhx (brk : Bool) (rb ra rt : RegNum) (pr : PredNum) :
    Statement (.ldhx brk rb ra rt pr) := packR2_brk _ _ _ _ _ _ _

theorem ldhrx (brk : Bool) (op3 : BitVec 3) (rb ra rt : RegNum) (pr : PredNum) :
    Statement (.ldhrx brk op3 rb ra rt pr) := packR2_brk _ _ _ _ _ _ _

theorem ldchk (brk : Bool) (op3 : BitVec 3) (rb ra rt : RegNum) (pr : PredNum) :
    Statement (.ldchk brk op3 rb ra rt pr) := packR2_brk _ _ _ _ _ _ _

theorem stbx (brk : Bool) (ra rs : RegNum) (pr : PredNum) :
    Statement (.stbx brk ra rs pr) := packR2_brk _ _ _ _ _ _ _

theorem stwx (brk : Bool) (ra rs : RegNum) (pr : PredNum) :
    Statement (.stwx brk ra rs pr) := packR2_brk _ _ _ _ _ _ _

theorem sttx (brk : Bool) (ra rs : RegNum) (pr : PredNum) :
    Statement (.sttx brk ra rs pr) := packR2_brk _ _ _ _ _ _ _

theorem stox (brk : Bool) (ra rs : RegNum) (pr : PredNum) :
    Statement (.stox brk ra rs pr) := packR2_brk _ _ _ _ _ _ _

theorem sthx (brk : Bool) (ra rs : RegNum) (pr : PredNum) :
    Statement (.sthx brk ra rs pr) := packR2_brk _ _ _ _ _ _ _

theorem sthcx (brk : Bool) (op3 : BitVec 3) (rb ra rs : RegNum) (pr : PredNum) :
    Statement (.sthcx brk op3 rb ra rs pr) := packR2_brk _ _ _ _ _ _ _

theorem reg (brk : Bool) (rb ra rt : RegNum) (pr : PredNum) :
    Statement (.reg brk rb ra rt pr) := packR2_brk _ _ _ _ _ _ _

theorem csr (op2 m2 : BitVec 2) (csr : BitVec 10) (ra rt : BitVec 5) (pr : PredNum) :
    Statement (.csr op2 m2 csr ra rt pr) := by
  simp only [Statement, brkOf, encode, Instr.brk, BitVec.getLsbD_append, reduceIte, Nat.reduceLT, Nat.reduceSub]
  rfl

theorem carry (io7 io6 io5 io4 io3 io2 io1 io0 : BitVec 2) (rt : BitVec 5) (pr : PredNum) :
    Statement (.carry io7 io6 io5 io4 io3 io2 io1 io0 rt pr) := by
  simp only [Statement, brkOf, encode, Instr.brk, BitVec.getLsbD_append, reduceIte, Nat.reduceLT, Nat.reduceSub]
  rfl

end Sys2Proof.Laws.BreakBit
end

