-- ==== Sys2Proof/Tests/Slice0.lean ====
section
/-! SUPPORT. Tests whose expected results come from the spec (its vectors V<n> of 95_test_vectors.md, or the rule that a
comment cites), and for every obligation that has hypotheses a witness `wit_<Name>` that meets them. -/

namespace Sys2Proof.Tests

open Sys2Proof Sys2Proof.Machine

/-! ## Well-formedness: one ill-formed instruction for each check -/

theorem test_wf_accepts : WellFormed (.add true 2 1 3 1) = true := by decide
theorem test_wf_layout : WellFormed (.csr 0 0 0 0 0 1) = false ∧ (Instr.csr 0 0 0 0 0 1).inLayoutA = false := by decide
theorem test_wf_rule : WellFormed (.sys true 0) = false ∧ (Instr.sys true 0).hasRule = false := by decide
theorem test_wf_relation :
    WellFormed (.seti true .bs 5 1 3 1) = false ∧ (Instr.seti true .bs 5 1 3 1).relationDefined = false := by decide
theorem test_wf_targets :
    WellFormed (.cmp true .lt 2 2 2 1 1) = false ∧ (Instr.cmp true .lt 2 2 2 1 1).targetsDistinct = false ∧
      WellFormed (.cmp true .lt 1 1 2 1 1) = true := by decide
theorem test_wf_joins :
    WellFormed (.reg true 5 4 6 1) = false ∧ (Instr.reg true 5 4 6 1).joinsItsUser = false := by decide

/-! ## Decoding: a word of every constructor, put together from the fields of spec/opcode_table.json -/

theorem test_decode_named_majors :
    decode 0x81ABCDEF01#40 = .ok (.sys true 0x1abcdef01) ∧
    decode 0x83ABCDEF01#40 = .ok (.mod true 0x1abcdef01) ∧
    decode 0x87ABCDEF01#40 = .ok (.flt true 0x1abcdef01) ∧
    decode 0xA549202045#40 = .ok (.fcmp true 5 9 8 2 1 5) ∧
    decode 0xA749202045#40 = .ok (.cmp19 true 5 9 8 2 1 5) ∧
    decode 0xAD4923C045#40 = .ok (.fcmpi true 5 9 8 60 1 5) ∧
    decode 0xAF4923C045#40 = .ok (.cmpi23 true 5 9 8 60 1 5) ∧
    decode 0xB1ABCDEF01#40 = .ok (.fdp true 0x1abcdef01) ∧
    decode 0xB3ABCDEF01#40 = .ok (.ffdp true 0x1abcdef01) ∧
    decode 0xBD7FEC10C5#40 = .ok (.fseti true 5 0xffb 1 3 5) ∧
    decode 0xD7FFF410C5#40 = .ok (.ldhr true 0x7ffd 1 3 5) ∧
    decode 0xEDFFF410C5#40 = .ok (.sthc true 0x7ffd 1 3 5) := by decide

theorem test_decode_named_functions :
    decode 0x84F50810C5#40 = .ok (.fset true 5 2 1 3 5) ∧
    decode 0x855E0810C5#40 = .ok (.ldhrx true 6 2 1 3 5) ∧
    decode 0x857E0810C5#40 = .ok (.ldchk true 6 2 1 3 5) ∧
    decode 0x85B60810C5#40 = .ok (.sthcx true 6 2 1 3 5) := by decide

theorem test_decode_immediate_alu :
    decode 0x89FFF410C5#40 = .ok (.addi true 0x7ffd 1 3 5) ∧
    decode 0x8BFFF410C5#40 = .ok (.subfi true 0x7ffd 1 3 5) ∧
    decode 0x91FFF410C5#40 = .ok (.andi true 0x7ffd 1 3 5) ∧
    decode 0x93FFF410C5#40 = .ok (.ori true 0x7ffd 1 3 5) ∧
    decode 0x95FFF410C5#40 = .ok (.xori true 0x7ffd 1 3 5) ∧
    decode 0x99FFF410C5#40 = .ok (.muli true 0x7ffd 1 3 5) := by decide

theorem test_decode_flow :
    decode 0x9BFFFFFC45#40 = .ok (.bnz true 0x7fffff1 5) ∧
    decode 0x9DFFFFFC45#40 = .ok (.bz true 0x7fffff1 5) ∧
    decode 0x9FFFFFFC45#40 = .ok (.bsr true 0x7fffff1 5) ∧
    decode 0xF955555555#40 = .ok (.nop true 0x155555555) ∧
    decode 0x84680010C5#40 = .ok (.jmr true 1 3 5) := by decide

theorem test_decode_compares :
    decode 0xA049202045#40 = .ok (.cmp true .ge 9 8 2 1 5) ∧
    decode 0xA289202045#40 = .ok (.cmpu true .le 9 8 2 1 5) ∧
    decode 0xA94923C045#40 = .ok (.cmpi true .ne 9 8 60 1 5) ∧
    decode 0xAA0923C045#40 = .ok (.cmpui true .lt 9 8 60 1 5) := by decide

theorem test_decode_sets :
    decode 0xB97FEC10C5#40 = .ok (.seti true .ne 0xffb 1 3 5) ∧
    decode 0xBA3FEC10C5#40 = .ok (.setui true .lt 0xffb 1 3 5) ∧
    decode 0x84E30810C5#40 = .ok (.set true .gt 2 1 3 5) ∧
    decode 0x84EC0810C5#40 = .ok (.setu true .eq 2 1 3 5) := by decide

theorem test_decode_loads :
    decode 0xC1FFF410C5#40 = .ok (.ldb true 0x7ffd 1 3 5) ∧
    decode 0xC3FFF410C5#40 = .ok (.ldbu true 0x7ffd 1 3 5) ∧
    decode 0xC5FFF410C5#40 = .ok (.ldw true 0x7ffd 1 3 5) ∧
    decode 0xC7FFF410C5#40 = .ok (.ldwu true 0x7ffd 1 3 5) ∧
    decode 0xC9FFF410C5#40 = .ok (.ldt true 0x7ffd 1 3 5) ∧
    decode 0xCBFFF410C5#40 = .ok (.ldtu true 0x7ffd 1 3 5) ∧
    decode 0xCDFFF410C5#40 = .ok (.ldo true 0x7ffd 1 3 5) ∧
    decode 0xCFFFF410C5#40 = .ok (.ldou true 0x7ffd 1 3 5) ∧
    decode 0xD5FFF410C5#40 = .ok (.ldh true 0x7ffd 1 3 5) := by decide

theorem test_decode_stores :
    decode 0xE1FFF410C5#40 = .ok (.stb true 0x7ffd 1 3 5) ∧
    decode 0xE3FFF410C5#40 = .ok (.stw true 0x7ffd 1 3 5) ∧
    decode 0xE5FFF410C5#40 = .ok (.stt true 0x7ffd 1 3 5) ∧
    decode 0xE7FFF410C5#40 = .ok (.sto true 0x7ffd 1 3 5) ∧
    decode 0xEBFFF410C5#40 = .ok (.sth true 0x7ffd 1 3 5) := by decide

theorem test_decode_modifiers :
    decode 0xF769696945#40 = .ok (.con4 true 0x5a5a5a5 5) ∧
    decode 0xFB69696945#40 = .ok (.con1 true 0x5a5a5a5 5) ∧
    decode 0xFD69696945#40 = .ok (.con2 true 0x5a5a5a5 5) ∧
    decode 0xFF69696945#40 = .ok (.con3 true 0x5a5a5a5 5) ∧
    decode 0x85F80810C5#40 = .ok (.reg true 2 1 3 5) := by decide

theorem test_decode_shifts :
    decode 0x84000810C5#40 = .ok (.sll true 2 1 3 5) ∧
    decode 0x84055410C5#40 = .ok (.slli true 85 1 3 5) ∧
    decode 0x84020810C5#40 = .ok (.sllE true 2 1 3 5) ∧
    decode 0x84075410C5#40 = .ok (.sllEi true 85 1 3 5) ∧
    decode 0x84080810C5#40 = .ok (.srl true 2 1 3 5) ∧
    decode 0x840D5410C5#40 = .ok (.srli true 85 1 3 5) ∧
    decode 0x840A0810C5#40 = .ok (.srlE true 2 1 3 5) ∧
    decode 0x840F5410C5#40 = .ok (.srlEi true 85 1 3 5) ∧
    decode 0x84100810C5#40 = .ok (.sra true 2 1 3 5) ∧
    decode 0x84155410C5#40 = .ok (.srai true 85 1 3 5) ∧
    decode 0x84120810C5#40 = .ok (.sraE true 2 1 3 5) ∧
    decode 0x84175410C5#40 = .ok (.sraEi true 85 1 3 5) := by decide

theorem test_decode_register_alu :
    decode 0x84200810C5#40 = .ok (.add true 2 1 3 5) ∧
    decode 0x84280810C5#40 = .ok (.sub true 2 1 3 5) ∧
    decode 0x84400810C5#40 = .ok (.and true 2 1 3 5) ∧
    decode 0x84480810C5#40 = .ok (.or true 2 1 3 5) ∧
    decode 0x84500810C5#40 = .ok (.xor true 2 1 3 5) ∧
    decode 0x84800810C5#40 = .ok (.nand true 2 1 3 5) ∧
    decode 0x84880810C5#40 = .ok (.nor true 2 1 3 5) ∧
    decode 0x84900810C5#40 = .ok (.xnor true 2 1 3 5) := by decide

theorem test_decode_multiplies :
    decode 0x84600810C5#40 = .ok (.mulS true 2 1 3 5) ∧
    decode 0x84610810C5#40 = .ok (.mulU true 2 1 3 5) ∧
    decode 0x84620810C5#40 = .ok (.mulSu true 2 1 3 5) ∧
    decode 0x84640810C5#40 = .ok (.mulOp4 true 2 1 3 5) ∧
    decode 0x84650810C5#40 = .ok (.mulOp5 true 2 1 3 5) ∧
    decode 0x84660810C5#40 = .ok (.mulOp6 true 2 1 3 5) ∧
    decode 0x84670810C5#40 = .ok (.mulOp7 true 2 1 3 5) := by decide

theorem test_decode_indexed_loads :
    decode 0x85000810C5#40 = .ok (.ldbx true 2 1 3 5) ∧
    decode 0x85080810C5#40 = .ok (.ldbux true 2 1 3 5) ∧
    decode 0x85100810C5#40 = .ok (.ldwx true 2 1 3 5) ∧
    decode 0x85180810C5#40 = .ok (.ldwux true 2 1 3 5) ∧
    decode 0x85200810C5#40 = .ok (.ldtx true 2 1 3 5) ∧
    decode 0x85280810C5#40 = .ok (.ldtux true 2 1 3 5) ∧
    decode 0x85300810C5#40 = .ok (.ldox true 2 1 3 5) ∧
    decode 0x85380810C5#40 = .ok (.ldoux true 2 1 3 5) ∧
    decode 0x85500810C5#40 = .ok (.ldhx true 2 1 3 5) := by decide

theorem test_decode_indexed_stores :
    decode 0x85800010C5#40 = .ok (.stbx true 1 3 5) ∧
    decode 0x85880010C5#40 = .ok (.stwx true 1 3 5) ∧
    decode 0x85900010C5#40 = .ok (.sttx true 1 3 5) ∧
    decode 0x85980010C5#40 = .ok (.stox true 1 3 5) ∧
    decode 0x85A80010C5#40 = .ok (.sthx true 1 3 5) := by decide

/-- BRA has no word of its own: its word is read as BZ P0 (R105). -/
theorem test_decode_bra : decode 0x9DFFFFFC40#40 = .ok (.bz true 0x7fffff1 0) := by decide

theorem test_decode_layout_c :
    decodeWith true 0x13E6A54C85#40 = .ok (.csr 2 1 0x2a5 9 18 5) ∧
    decodeWith true 0x17BB649C85#40 = .ok (.carry 1 2 3 0 2 1 0 3 18 5) := by decide

/-- R96, R98: no instruction, and an unused bit set (V16, V63, V63a, V65, V42c). -/
theorem test_decode_no_instruction :
    decode 0x84630810C1#40 = .illegal ∧ decode 0x8C00000001#40 = .illegal ∧ decode 0x8418000001#40 = .illegal ∧
    decode 0x84210810C1#40 = .unusedBits ∧ decode 0x8468081001#40 = .unusedBits := by decide

theorem test_decode_table_word : decodeTableWord 40 0x84200810C1 = some (.add true 2 1 3 1) := by decide

theorem test_decode_bytes_short : decodeBytes [0xC1, 0x10, 0x08, 0x20] = (.truncated, [0xC1, 0x10, 0x08, 0x20]) := by decide

/-! ## Small states and what a step left -/

/-- The reset state with these registers. -/
def start (xs : List (RegNum × Word)) : State :=
  xs.foldl (fun s x => s.setReg x.1 x.2) State.reset

/-- A REG with these fields, guarded by P1, has just run. -/
def afterReg (ra rb rt : RegNum) (s : State) : State := { s with pendReg := some ⟨ra, rb, rt, 1⟩ }

/-- Constant prefixes are admitted and one, guarded by P1, has just run. -/
def afterCon (s : State) : State :=
  { s with pendCon := some ⟨[(.con1, 7)], 1⟩, launch := { s.launch with conA := .free } }

/-- The predicate `p` holds `b`. -/
def givenPred (p : PredNum) (b : Bool) (s : State) : State := s.setPred p b

/-- The next instruction is fetched from `a`. -/
def atPc (a : Addr) (s : State) : State := { s with pc := a }

/-- The launch placed the word `w` at `a`. -/
def placed (a : Addr) (w : IWord) (s : State) : State :=
  { s with
    mem := storeBytes s.mem a (w.setWidth 128) 5
    launch := { s.launch with text := a :: s.launch.text } }

/-- The data of the vectors V50 to V57. -/
def withData (s : State) : State :=
  { s with
    mem := storeBytes s.mem 0x2010 0x0706050403020100FFFFFFFFFFFFFFFE 16
    launch := { s.launch with memValid := [⟨0x2000, 0x30⟩] } }

/-- Register `r` after the step. -/
def regAfter (r : RegNum) : Result → Option Word
  | .next t => some (t.reg r)
  | .fault _ => none
  | .refused _ => none

/-- Predicate `p` after the step. -/
def predAfter (p : PredNum) : Result → Option Bool
  | .next t => some (t.pred p)
  | .fault _ => none
  | .refused _ => none

/-- The pc after the step. -/
def pcAfter : Result → Option Addr
  | .next t => some t.pc
  | .fault _ => none
  | .refused _ => none

/-- The `n` bytes at `a` after the step, as a number. -/
def dataAfter (a : Addr) (n : Nat) : Result → Option Word
  | .next t => some (loadBytes t.mem a n)
  | .fault _ => none
  | .refused _ => none

/-- The state after the step. -/
def stateAfter : Result → Option State
  | .next t => some t
  | .fault _ => none
  | .refused _ => none

/-- The fault the step raised. -/
def faultOf : Result → Option Fault
  | .next _ => none
  | .fault f => some f
  | .refused _ => none

/-- Why the step was refused. -/
def refusalOf : Result → Option Refusal
  | .next _ => none
  | .fault _ => none
  | .refused r => some r

/-! ## One step each: arithmetic and logic (V1 to V8b) -/

theorem test_add : regAfter 3 (runWord 0x84200810C1 (start [(1, 0x7FFFFFFFFFFFFFFFFFFFFFFFFFFFFFFF), (2, 1)])) =
      some 0x80000000000000000000000000000000 := by decide
theorem test_add_r0 : regAfter 0 (runWord 0x8420081001 (start [(1, 5), (2, 7)])) = some 0 := by decide
theorem test_or_guard_false :
    stateAfter (runWord 0x84480810C5 (givenPred 5 false (start [(1, 5), (2, 7), (3, 9)]))) =
      some (atPc 0x1005 (givenPred 5 false (start [(1, 5), (2, 7), (3, 9)]))) := by decide
theorem test_addi : regAfter 3 (runWord 0x89FFFC10C1 (start [(1, 0)])) = some (-1) := by decide
theorem test_sub : regAfter 3 (runWord 0x84280810C1 (start [(1, 5), (2, 7)])) = some (-2) := by decide
theorem test_subfi : regAfter 3 (runWord 0x8A002810C1 (start [(1, 3)])) = some 7 := by decide
theorem test_and : regAfter 3 (runWord 0x84400810C1 (start [(1, 0xF0F0), (2, 0xFF00)])) = some 0xF000 := by decide
theorem test_andi : regAfter 3 (runWord 0x91FFC010C1 (start [(1, -1)])) = some (-16) := by decide
theorem test_or : regAfter 3 (runWord 0x84480810C1 (start [(1, 0xF0), (2, 0x0F)])) = some 0xFF := by decide
theorem test_ori : regAfter 3 (runWord 0x93FFFC10C1 (start [(1, 0)])) = some (-1) := by decide
theorem test_xor : regAfter 3 (runWord 0x84500810C1 (start [(1, 0xFF), (2, 0x0F)])) = some 0xF0 := by decide
theorem test_xori : regAfter 3 (runWord 0x95FFFC10C1 (start [(1, 0)])) = some (-1) := by decide
theorem test_nand : regAfter 3 (runWord 0x84800810C1 (start [(1, -1), (2, -1)])) = some 0 := by decide
theorem test_nor : regAfter 3 (runWord 0x84880810C1 (start [(1, 0), (2, 0)])) = some (-1) := by decide
theorem test_xnor : regAfter 3 (runWord 0x84900810C1 (start [(1, 0x55), (2, 0x55)])) = some (-1) := by decide

/-! ## Multiply and shift (V10 to V19f) -/

theorem test_mul_s : regAfter 3 (runWord 0x84600810C1 (start [(1, -1), (2, 2)])) = some (-2) := by decide
theorem test_mul_s_high : regAfter 5 (runWord 0x84600C2101 (afterReg 0 0 5 (start [(2, -1), (3, 2)]))) = some (-1) := by
  decide
theorem test_mul_u : regAfter 3 (runWord 0x84610810C1 (start [(1, -1), (2, 2)])) = some (-2) := by decide
theorem test_mul_u_high : regAfter 5 (runWord 0x84610C2101 (afterReg 0 0 5 (start [(2, -1), (3, 2)]))) = some 1 := by
  decide
theorem test_mul_su : regAfter 3 (runWord 0x84620810C1 (start [(1, -1), (2, -1)])) = some 1 := by decide
theorem test_mul_su_high : regAfter 5 (runWord 0x84620C2101 (afterReg 0 0 5 (start [(2, -1), (3, -1)]))) = some (-1) := by
  decide
theorem test_muli : regAfter 3 (runWord 0x99FFFC20C1 (start [(2, 7)])) = some (-7) := by decide

/-- The operands of V15. -/
def dotStart : State := afterReg 4 5 6 (start [(1, 2), (2, 3), (4, 4), (5, 5)])

theorem test_mul_op4 :
    regAfter 3 (runWord 0x84640810C1 dotStart) = some 26 ∧ regAfter 6 (runWord 0x84640810C1 dotStart) = some 0 := by decide
theorem test_mul_op5 :
    let s := afterReg 8 9 11 (start [(3, 2), (8, 4), (9, 5)])
    regAfter 10 (runWord 0x84650C3281 s) = some (-24) ∧ regAfter 11 (runWord 0x84650C3281 s) = some (-1) := by decide
theorem test_mul_op6 :
    regAfter 3 (runWord 0x84660810C1 dotStart) = some (-14) ∧ regAfter 6 (runWord 0x84660810C1 dotStart) = some (-1) := by
  decide
theorem test_mul_op7 :
    regAfter 3 (runWord 0x84670810C1 dotStart) = some 14 ∧ regAfter 6 (runWord 0x84670810C1 dotStart) = some 0 := by decide
theorem test_mul_op4_alone : refusalOf (runWord 0x84640810C1 (start [])) = some (.missingRegPrefix 0x1000) := by decide

theorem test_sll : regAfter 3 (runWord 0x84000810C1 (start [(1, 1), (2, 129)])) = some 2 := by decide
theorem test_slli : regAfter 3 (runWord 0x8405FC10C1 (start [(1, 3)])) = some 0x80000000000000000000000000000000 := by decide
theorem test_sll_e :
    let s := afterReg 4 0 6 (start [(1, 0x80000000000000000000000000000001), (2, 1), (4, 0x80000000000000000000000000000000)])
    regAfter 3 (runWord 0x84020810C1 s) = some 3 ∧ regAfter 6 (runWord 0x84020810C1 s) = some 1 := by decide +kernel
theorem test_sll_ei :
    let s := afterReg 4 0 6 (start [(1, 0x80000000000000000000000000000001), (4, 0x80000000000000000000000000000000)])
    regAfter 3 (runWord 0x84060410C1 s) = some 3 ∧ regAfter 6 (runWord 0x84060410C1 s) = some 1 := by decide +kernel
theorem test_srl : regAfter 3 (runWord 0x84080810C1 (start [(1, 0x80000000000000000000000000000000), (2, 127)])) = some 1 := by decide
theorem test_srli : regAfter 3 (runWord 0x840C1010C1 (start [(1, 0xF0)])) = some 0x0F := by decide
theorem test_sra : regAfter 3 (runWord 0x84100810C1 (start [(1, -16), (2, 2)])) = some (-4) := by decide
theorem test_srai : regAfter 3 (runWord 0x84140410C1 (start [(1, 0x80000000000000000000000000000000)])) =
      some 0xC0000000000000000000000000000000 := by decide
theorem test_srl_e : refusalOf (runWord 0x840E1010C1 (start [])) = some (.extendedRightShift 0x1000) := by decide

/-! ## Compares and sets (V20 to V32) -/

theorem test_cmp :
    let r := runWord 0xA003082041 (start [(1, -1), (2, 1)])
    predAfter 2 r = some true ∧ predAfter 3 r = some false := by decide
theorem test_cmp_p0 : predAfter 0 (runWord 0xA100082041 (start [(1, 9), (2, 9)])) = some false := by decide
theorem test_cmpu :
    let r := runWord 0xA203082041 (start [(1, -1), (2, 1)])
    predAfter 2 r = some false ∧ predAfter 3 r = some true := by decide
theorem test_cmpi : predAfter 2 (runWord 0xA88309F041 (start [(1, 32)])) = some false := by decide
theorem test_cmpui : predAfter 2 (runWord 0xAA030BF041 (start [(1, 5)])) = some true := by decide
theorem test_set : regAfter 3 (runWord 0x84E00810C1 (start [(1, -1), (2, 1)])) = some 1 := by decide
theorem test_setu : regAfter 3 (runWord 0x84EB0810C1 (start [(1, -1), (2, 1)])) = some 1 := by decide
theorem test_seti : regAfter 3 (runWord 0xB8600010C1 (start [(1, -2049)])) = some 0 := by decide
theorem test_setui : regAfter 3 (runWord 0xBA3FFC10C1 (start [(1, 3)])) = some 1 := by decide
theorem test_cmpu_bc : refusalOf (runWord 0xA383082041 (start [])) = some (.undefinedRelation 0x1000) := by decide
theorem test_cmpi_same : refusalOf (runWord 0xA802082041 (start [])) = some (.samePredicateTargets 0x1000) := by decide

/-! ## Control flow (V35 to V43b) -/

theorem test_bnz : pcAfter (runWord 0x9BFFFFFC42 (atPc 0x1019 (start []))) = some 0x100A := by decide
theorem test_bnz_not : pcAfter (runWord 0x9BFFFFFC42 (givenPred 2 false (atPc 0x1019 (start [])))) = some 0x101E := by decide
theorem test_bz : pcAfter (runWord 0x9C00000502 (givenPred 2 false (atPc 0x2000 (start [])))) = some 0x2014 := by decide
theorem test_bz_not : pcAfter (runWord 0x9C00000501 (atPc 0x2000 (start []))) = some 0x2005 := by decide
theorem test_bra : pcAfter (runWord 0x9DFFFFFEC0 (atPc 0 (start []))) = some (-5) := by decide
theorem test_exec_bra : pcAfter (exec (.bra true 15) (atPc 0x300A (start []))) = some 0x3019 := by decide
theorem test_bsr :
    let r := runWord 0x9E00000281 (atPc 0x3005 (start []))
    pcAfter r = some 0x300F ∧ regAfter 1 r = some 0x300A := by decide
theorem test_bsr_guard_false :
    let r := runWord 0x9E00000283 (givenPred 3 false (atPc 0x3005 (start [(1, 77)])))
    pcAfter r = some 0x300A ∧ regAfter 1 r = some 77 := by decide
theorem test_jmr :
    let r := runWord 0x8468005141 (atPc 0x4000 (start [(5, 0x5000)]))
    pcAfter r = some 0x5000 ∧ regAfter 5 r = some 0x4005 := by decide
theorem test_nop : stateAfter (runWord 0x7800000000 (start [])) = some (atPc 0x1005 (start [])) := by decide

/-! ## Loads and stores (V50 to V58a) -/

/-- The registers of V50 to V57. -/
def dataStart : State := withData (start [(3, 0x1234), (4, 0x2000), (5, 0x10)])

theorem test_ldb : regAfter 3 (runWord 0xC0004040C1 dataStart) = some (-2) := by decide
theorem test_ldbu : regAfter 3 (runWord 0xC2004040C1 dataStart) = some 0xFE := by decide
theorem test_ldw : regAfter 3 (runWord 0xC4004040C1 dataStart) = some (-2) := by decide
theorem test_ldwu : regAfter 3 (runWord 0xC6004040C1 dataStart) = some 0xFFFE := by decide
theorem test_ldt : regAfter 3 (runWord 0xC8004040C1 dataStart) = some (-2) := by decide
theorem test_ldtu : regAfter 3 (runWord 0xCA004040C1 dataStart) = some 0xFFFFFFFE := by decide
theorem test_ldo : regAfter 3 (runWord 0xCC004040C1 dataStart) = some (-2) := by decide
theorem test_ldou : regAfter 3 (runWord 0xCE004040C1 dataStart) = some 0xFFFFFFFFFFFFFFFE := by decide
theorem test_ldh : regAfter 3 (runWord 0xD4004040C1 dataStart) = some 0x0706050403020100FFFFFFFFFFFFFFFE := by decide
theorem test_ldbx : regAfter 3 (runWord 0x85001440C1 dataStart) = some (-2) := by decide
theorem test_ldbux : regAfter 3 (runWord 0x85081440C1 dataStart) = some 0xFE := by decide
theorem test_ldwx : regAfter 3 (runWord 0x85101440C1 dataStart) = some (-2) := by decide
theorem test_ldwux : regAfter 3 (runWord 0x85181440C1 dataStart) = some 0xFFFE := by decide
theorem test_ldtx : regAfter 3 (runWord 0x85201440C1 dataStart) = some (-2) := by decide
theorem test_ldtux : regAfter 3 (runWord 0x85281440C1 dataStart) = some 0xFFFFFFFE := by decide
theorem test_ldox : regAfter 3 (runWord 0x85301440C1 dataStart) = some (-2) := by decide
theorem test_ldoux : regAfter 3 (runWord 0x85381440C1 dataStart) = some 0xFFFFFFFFFFFFFFFE := by decide
theorem test_ldhx : regAfter 3 (runWord 0x85501440C1 dataStart) = some 0x0706050403020100FFFFFFFFFFFFFFFE := by decide
theorem test_ldb_outside : refusalOf (runWord 0xC1FFFC40C1 dataStart) = some (.outsideMemory 0x1000 0x1FFF) := by decide
theorem test_ldt_misaligned : refusalOf (runWord 0xC8000840C1 dataStart) = some (.misaligned 0x1000 0x2002 4) := by decide

theorem test_stb : dataAfter 0x2010 2 (runWord 0xE0004040C1 dataStart) = some 0xFF34 := by decide
theorem test_stw : dataAfter 0x2010 4 (runWord 0xE2004040C1 dataStart) = some 0xFFFF1234 := by decide
theorem test_stt : dataAfter 0x2010 8 (runWord 0xE4004040C1 dataStart) = some 0xFFFFFFFF00001234 := by decide
theorem test_sto : dataAfter 0x2010 16 (runWord 0xE6004040C1 dataStart) = some 0x07060504030201000000000000001234 := by decide
theorem test_sth : dataAfter 0x2010 16 (runWord 0xEA004040C1 (dataStart.setReg 3 (-2))) = some (-2) := by decide
theorem test_stbx : dataAfter 0x2010 2 (runWord 0x85800040C1 (afterReg 5 0 0 dataStart)) = some 0xFF34 := by decide
theorem test_stwx : dataAfter 0x2010 4 (runWord 0x85880040C1 (afterReg 5 0 0 dataStart)) = some 0xFFFF1234 := by decide
theorem test_sttx : dataAfter 0x2010 8 (runWord 0x85900040C1 (afterReg 5 0 0 dataStart)) = some 0xFFFFFFFF00001234 := by
  decide
theorem test_stox :
    dataAfter 0x2010 16 (runWord 0x85980040C1 (afterReg 5 0 0 dataStart)) = some 0x07060504030201000000000000001234 := by
  decide
theorem test_sthx :
    dataAfter 0x2010 16 (runWord 0x85A80040C1 (afterReg 5 0 0 (dataStart.setReg 3 (-2)))) = some (-2) := by decide
theorem test_stbx_alone : refusalOf (runWord 0x85800040C1 dataStart) = some (.missingRegPrefix 0x1000) := by decide
theorem test_store_to_text :
    refusalOf (runWord 0xE0004040C1 (placed 0x200C 0xF800000001 dataStart)) = some (.storeToText 0x1000 0x2010) := by decide

/-! ## The words before their users, and the step (V61 to V67) -/

theorem test_con1 : refusalOf (runWord 0x7A000048C1 (start [])) = some (.constantPrefix 0x1000) := by decide
theorem test_con2_admitted :
    (stateAfter (exec (.con2 false 0x123 1) (afterCon (start [])))).map (·.pendCon) =
      some (some ⟨[(.con1, 7), (.con2, 0x123)], 1⟩) := by decide
theorem test_con4 : refusalOf (runWord 0x7600000001 (start [])) = some (.constantPrefix 0x1000) := by decide
theorem test_reg : stateAfter (exec (.reg false 5 4 6 1) (start [])) = some (atPc 0x1005 (afterReg 4 5 6 (start []))) := by decide
theorem test_reg_break : refusalOf (runWord 0x85F8000141 (start [])) = some (.danglingPrefix 0x1000) := by decide
theorem test_reg_then_nand :
    refusalOf (runWord 0x84800810C1 (afterReg 4 5 6 (start []))) = some (.danglingPrefix 0x1000) := by decide
theorem test_reg_other_guard :
    refusalOf (runWord 0x98001820C2 (afterReg 0 0 5 (start []))) = some (.danglingPrefix 0x1000) := by decide
theorem test_illegal_guard_false :
    faultOf (runWord 0x8C00000000 (start [])) = some (.illegalInstruction 0x1000 0x8C00000000) := by decide
theorem test_sys : refusalOf (runWord 0 (start [])) = some (.namedOnly "SYS") := by decide
theorem test_ldchk : refusalOf (runWord 0x85781440C1 (start [])) = some (.namedOnly "LDCHK") := by decide
theorem test_halt_ip :
    let s := { State.reset with launch := { Launch.reset with haltIp := some 0x1000 } }
    stateAfter (step s) = some s := by decide
theorem test_step_and :
    regAfter 3 (step ((start [(1, 0xF0F0), (2, 0xFF00)]).withFetchWord 40 0x84400810C1)) = some 0xF000 := by decide

/-! ## A prefix and its user (R250, R291, R294, R295), and CMP_PT2 in the group check (R326 (a), D13) -/

/-- REG, then MUL.U, and the run ends at `h` (V13). -/
def pairStart (h : Option Addr) : State :=
  let s := placed 0x1000 0x05F8000141 (placed 0x1005 0x84610C2101 (start [(2, -1), (3, 2)]))
  { s with launch := { s.launch with haltIp := h } }

/-- withFetchWord places a user behind a REG (log 6). -/
theorem test_pair_placed :
    (stateAfter (step ((start []).withFetchWord 40 0x05F8144181))).map (·.pendReg) = some (some ⟨4, 5, 6, 1⟩) := by decide
theorem test_pair_runs : pcAfter (step (pairStart (some 0x100A))) = some 0x1005 := by decide
theorem test_pair_ends_inside : refusalOf (step (pairStart (some 0x1005))) = some (.danglingPrefix 0x1000) := by decide
/-- R294: the pairing of the REG is checked before the word behind it, major opcode 6, is found to be no instruction. -/
theorem test_pair_no_instruction :
    refusalOf (step (placed 0x1000 0x05F8000141 (placed 0x1005 0x8C00000001 (start [])))) =
      some (.danglingPrefix 0x1000) := by decide
/-- R295: STWX at an odd address stops the pair before its REG. -/
theorem test_pair_misaligned :
    refusalOf (step (placed 0x1000 0x05F8005001 (placed 0x1005 0x85880040C1 (start [(4, 0x2000), (5, 1)])))) =
      some (.misaligned 0x1005 0x2001 2) := by decide
theorem test_group_unwritten_target :
    3 ∈ (footprint Launch.reset (.cmp false .lt 3 2 2 1 1)).predWrites ∧
    (footprint { Launch.reset with cmpPt2 := .unwritten } (.cmp false .lt 3 2 2 1 1)).predWrites = [2] := by decide

/-! ## The decimal floating-point datum (V70 to V75) -/

theorem test_float_one :
    Float80.value 0xBFC80000000000000000 = .finite true (10 ^ 20) (-20) := by decide
theorem test_float_largest :
    Float80.value 0xFF8FF3FCFF3FCFF3FCFF = .finite true (10 ^ 21 - 1) 235 := by decide
theorem test_float_digits :
    Float80.value 0xC00A395BCF0000000000 = .finite true 123456789000000000000 (-19) := by decide

/-! ## Witnesses: for every obligation with hypotheses, a state and operands that meet them -/

/-- The reset state under another launch. -/
def launched (f : Launch → Launch) : State := { State.reset with launch := f Launch.reset }

/-- Every B reads as a break before its instruction. -/
def breaksBefore (s : State) : State := { s with launch := { s.launch with breakPolarity := .before } }

/-- Relations 6 and 7 test a bit. -/
def bitTests : State := launched fun l => { l with bcbs := .bitTest }

/-- MISALIGNED = split. -/
def splits (s : State) : State := { s with launch := { s.launch with misaligned := .split } }

theorem ready : State.reset.Ready 1 := And.intro (And.intro rfl rfl) rfl

theorem ready_const : State.reset.ReadyForConst true 1 := And.intro rfl (And.intro (fun _ h => nomatch h) rfl)

theorem ready_after_con : (afterCon (start [])).ReadyForConst true 1 :=
  And.intro rfl (And.intro (fun _ h => by cases h; exact And.intro rfl rfl) rfl)

theorem ready_with : (afterReg 0 0 5 (start [])).ReadyWith true 1 ⟨0, 0, 5, 1⟩ :=
  And.intro rfl (And.intro rfl (And.intro rfl (And.intro rfl rfl)))

theorem wit_DecodeUndoesEncode :
    (Instr.add true 2 1 3 1).inLayoutA = true ∧ (Instr.nop false 0x1FFFFFFFF).inLayoutA = true := by decide

theorem wit_EncodeUndoesDecode : decode 0x84200810C1#40 = .ok (.add true 2 1 3 1) := by decide

theorem wit_LayoutCWords : (launched fun l => { l with layoutC := true }).launch.layoutC = true := rfl

theorem wit_UnassignedWordsFault :
    State.reset.launch.layoutC = false ∧ (bits 0x0C00000000#40 33 6).toNat = 6 ∧ (bits 0xF5FFFFFFFF#40 33 6).toNat = 58 ∧
    (bits 0x0418000000#40 33 6).toNat = 2 ∧ (bits 0x0418000000#40 27 6).toNat = 3 ∧
    (bits 0x05F0000000#40 33 6).toNat = 2 ∧ (bits 0x05F0000000#40 27 6).toNat = 62 ∧
    (bits 0x0463000000#40 27 6).toNat = 12 ∧ (bits 0x0463000000#40 24 3).toNat = 3 := by decide

theorem wit_UnusedBitsRefused :
    (bits 0x8421000000#40 33 6).toNat = 2 ∧ (bits 0x8421000000#40 27 6).toNat = 4 ∧ bits 0x8421000000#40 24 3 ≠ 0 ∧
    (bits 0x85FC000000#40 27 6).toNat = 63 ∧ bits 0x85FC000000#40 24 3 ≠ 0 ∧
    (bits 0x8411000000#40 27 6).toNat = 2 ∧ (0x8411000000#40).getLsbD 26 = false ∧ (0x8411000000#40).getLsbD 24 = true ∧
    (bits 0x8468040000#40 27 6).toNat = 13 ∧ bits 0x8468040000#40 18 6 ≠ 0 ∧
    (bits 0x85AC000000#40 27 6).toNat = 53 ∧ bits 0x85A8800000#40 18 6 ≠ 0 ∧
    (bits 0x7800000000#40 33 6).toNat = 60 := by decide

theorem wit_NamedOnlyWordsRefused :
    (bits 0#40 33 6).toNat = 0 ∧ (0, "SYS") ∈ namedMajors ∧ (bits 0xEDFFFFFFFF#40 33 6).toNat = 54 ∧
    (54, "STHC") ∈ namedMajors ∧ (bits 0x85B7FFFFFF#40 33 6).toNat = 2 ∧ (bits 0x85B7FFFFFF#40 27 6).toNat = 54 ∧
    (54, "STHCX") ∈ namedFunctions := by decide

theorem wit_ExtendedRightShiftRefused :
    (bits 0x840E1010C1#40 33 6).toNat = 2 ∧ (bits 0x840E1010C1#40 27 6).toNat = 1 ∧ (0x840E1010C1#40).getLsbD 25 = true ∧
    (0x840E1010C1#40).getLsbD 26 = true ∧ (bits 0x84120810C1#40 27 6).toNat = 2 ∧
    (0x84120810C1#40).getLsbD 25 = true ∧ (0x84120810C1#40).getLsbD 24 = false := by decide

theorem wit_BitRelationsRefused :
    State.reset.launch.bcbs = .refuse ∧ (Instr.cmp true .bc 3 2 2 1 1).relationDefined = false ∧
    (Instr.setui true .bs 5 1 3 1).relationDefined = false := by decide

theorem wit_SameTargetsRefused :
    (Instr.cmp true .lt 2 2 2 1 1).predTargets = some (2, 2) ∧ 1 < (2 : PredNum).toNat ∧
    (Instr.cmp true .lt 2 2 2 1 1).relationDefined = true ∧
    (Instr.cmpui true .bs 63 63 0 1 1).predTargets = some (63, 63) ∧ bitTests.launch.bcbs = .bitTest := by decide

theorem wit_ConstantsKeepImmediate : State.reset.pendCon = none ∧ (afterCon (start [])).pendCon ≠ none := by decide

theorem wit_AddSubtract :
    State.reset.Ready 1 ∧ State.reset.ReadyForConst true 1 ∧ (afterCon (start [])).ReadyForConst true 1 :=
  And.intro ready (And.intro ready_const ready_after_con)

theorem wit_BitwiseLogic :
    State.reset.Ready 1 ∧ State.reset.ReadyForConst true 1 ∧ (afterCon (start [])).ReadyForConst true 1 :=
  And.intro ready (And.intro ready_const ready_after_con)

theorem wit_MultiplyLow : State.reset.Ready 1 ∧ State.reset.ReadyForConst true 1 := And.intro ready ready_const

theorem wit_MultiplyHigh :
    (afterReg 0 0 5 (start [])).ReadyWith true 1 ⟨0, 0, 5, 1⟩ ∧ ((5 : RegNum) = 0 ∨ (5 : RegNum) ≠ 4) ∧
    (afterReg 0 0 0 (start [])).ReadyWith true 1 ⟨0, 0, 0, 1⟩ :=
  And.intro ready_with (And.intro (by decide) (And.intro rfl (And.intro rfl (And.intro rfl (And.intro rfl rfl)))))

theorem wit_DotProducts :
    dotStart.ReadyWith true 1 ⟨4, 5, 6, 1⟩ ∧ ((6 : RegNum) = 0 ∨ (6 : RegNum) ≠ 3) :=
  And.intro (And.intro rfl (And.intro rfl (And.intro rfl (And.intro rfl rfl)))) (by decide)

theorem wit_Shifts : State.reset.Ready 1 := ready

theorem wit_ExtendedLeftShift :
    (afterReg 4 0 6 (start [])).ReadyWith true 1 ⟨4, 0, 6, 1⟩ ∧ ((6 : RegNum) = 0 ∨ (6 : RegNum) ≠ 3) :=
  And.intro (And.intro rfl (And.intro rfl (And.intro rfl (And.intro rfl rfl)))) (by decide)

theorem wit_Compares :
    State.reset.Ready 1 ∧ State.reset.ReadyForConst true 1 ∧ Rel.lt ≠ .bc ∧ Rel.lt ≠ .bs ∧
    ¬((2 : PredNum) = 3 ∧ 1 < (2 : PredNum).toNat) ∧ ¬((1 : PredNum) = 1 ∧ 1 < (1 : PredNum).toNat) :=
  And.intro ready (And.intro ready_const (by decide))

theorem wit_Sets : State.reset.Ready 1 ∧ State.reset.ReadyForConst true 1 ∧ Rel.ne ≠ .bc ∧ Rel.ne ≠ .bs :=
  And.intro ready (And.intro ready_const (by decide))

theorem wit_BitTestRelations :
    bitTests.launch.bcbs = .bitTest ∧ bitTests.launch.cmpPt2 = .complement ∧
    ¬((2 : PredNum) = 3 ∧ 1 < (2 : PredNum).toNat) ∧ bitTests.Ready 1 ∧ bitTests.ReadyForConst true 1 :=
  And.intro rfl (And.intro rfl (And.intro (by decide)
    (And.intro (And.intro (And.intro rfl rfl) rfl) (And.intro rfl (And.intro (fun _ h => nomatch h) rfl)))))

theorem wit_Branches : State.reset.NoPrefix ∧ (launched fun l => { l with branchTest := .gpr }).NoPrefix :=
  And.intro (And.intro rfl rfl) (And.intro rfl rfl)

theorem wit_CallsLink : State.reset.Ready 1 := ready

theorem wit_NopDoesNothing : State.reset.NoPrefix := And.intro rfl rfl

/-- One witness for each kind of instruction that `AdvanceByFive` names. -/
theorem wit_AdvanceByFive :
    pcAfter (exec (.add true 2 1 3 1) State.reset) = some 0x1005 ∧
    (footprint Launch.reset (.add true 2 1 3 1)).branch = false ∧
    pcAfter (exec (.bsr true 10 0) State.reset) = some 0x1005 ∧ (Instr.bsr true 10 0).testsField = false ∧
    State.reset.pred (Instr.bsr true 10 0).guardField = false ∧
    pcAfter (exec (.bnz true 10 0) State.reset) = some 0x1005 ∧ State.reset.branchNonZero 0 = false ∧
    pcAfter (exec (.bz true 10 1) State.reset) = some 0x1005 ∧ State.reset.branchNonZero 1 = true := by decide

/-- R1 is 0x2010, and 16 bytes there may be read. -/
def readStart : State := start [(1, 0x2010), (2, 0)]

theorem wit_LoadsImmediate :
    readStart.ReadyForConst true 1 ∧ readStart.MayRead (readStart.reg 1 + readStart.constant (0 : BitVec 15)) 16 ∧
    readStart.MayRead (readStart.reg 1 + readStart.constant (-1 : BitVec 15)) 1 :=
  And.intro (And.intro rfl (And.intro (fun _ h => nomatch h) rfl))
    (And.intro (And.intro (by decide) (by decide)) (And.intro (by decide) (by decide)))

theorem wit_LoadsIndexed :
    readStart.Ready 1 ∧ readStart.MayRead (readStart.reg 1 + readStart.reg 2) 16 ∧
    (splits readStart).MayRead ((splits readStart).reg 1 + 1) 16 :=
  And.intro (And.intro (And.intro rfl rfl) rfl)
    (And.intro (And.intro (by decide) (by decide)) (And.intro (by decide) (by decide)))

theorem wit_StoresImmediate :
    readStart.mem.wf ∧ readStart.ReadyForConst true 1 ∧
    readStart.MayWrite (readStart.reg 1 + readStart.constant (0 : BitVec 15)) 16 :=
  And.intro (by decide) (And.intro (And.intro rfl (And.intro (fun _ h => nomatch h) rfl))
    (And.intro (And.intro (by decide) (by decide)) (by decide)))

theorem wit_StoresIndexed :
    let s := afterReg 2 0 0 readStart
    s.mem.wf ∧ s.ReadyWith true 1 ⟨2, 0, 0, 1⟩ ∧ s.MayWrite (s.reg 1 + s.reg 2) 16 :=
  And.intro (by decide) (And.intro (And.intro rfl (And.intro rfl (And.intro rfl (And.intro rfl rfl))))
    (And.intro (And.intro (by decide) (by decide)) (by decide)))

theorem wit_MemReadAdmitsAndReads :
    16 ∈ [1, 2, 4, 8, 16] ∧ dataStart.memRead 0x2010 16 = .ok 0x0706050403020100FFFFFFFFFFFFFFFE :=
  And.intro (by decide) rfl

/-- The last clause at the top of the access: the wyde at its bytes 14 and 15. -/
theorem wit_ReadBackWrite :
    dataStart.mem.wf ∧ 16 ∈ [1, 2, 4, 8, 16] ∧ (∃ t, dataStart.memWrite 0x2010 16 5 = .ok t) ∧ 2 ∈ [1, 2, 4, 8, 16] ∧
    14 + 2 ≤ 16 ∧ ((0x2010 : Addr) + BitVec.ofNat 128 14).toNat % 2 = 0 :=
  And.intro (by decide) (And.intro (by decide) (And.intro (Exists.intro _ rfl) (by decide)))

theorem wit_MisalignedRefused :
    memoryOperand (.ldt true 2 4 3 1) = some (.immediate 2 4, 4, false, 1) ∧
    dataStart.ReadyFor (Instr.ldt true 2 4 3 1).brk 1 (.immediate 2 4) ∧ dataStart.launch.misaligned = .refuse ∧
    ((AddrMode.immediate 2 4).address dataStart).toNat % 4 ≠ 0 :=
  And.intro rfl (And.intro (And.intro (And.intro rfl (fun _ h => nomatch h)) rfl) (And.intro rfl (by decide)))

/-- The first byte that is not populated is the third of the four at 0x202E. -/
theorem wit_OutsideMemoryRefused :
    let s := splits dataStart
    memoryOperand (.ldt true 0x2E 4 3 1) = some (.immediate 0x2E 4, 4, false, 1) ∧
    s.ReadyFor (Instr.ldt true 0x2E 4 3 1).brk 1 (.immediate 0x2E 4) ∧ s.launch.misaligned = .split ∧ 2 < 4 ∧
    (∀ j < 2, s.launch.populated ((AddrMode.immediate 0x2E 4).address s + BitVec.ofNat 128 j) = true) ∧
    s.launch.populated ((AddrMode.immediate 0x2E 4).address s + BitVec.ofNat 128 2) = false :=
  And.intro rfl (And.intro (And.intro (And.intro rfl (fun _ h => nomatch h)) rfl) (by decide))

/-- The text begins at the last of the 16 bytes stored to. -/
theorem wit_StoreToTextRefused :
    let s := placed 0x201F 0xF800000001 dataStart
    memoryOperand (.sth true 16 4 3 1) = some (.immediate 16 4, 16, true, 1) ∧
    s.ReadyFor (Instr.sth true 16 4 3 1).brk 1 (.immediate 16 4) ∧
    s.MayRead ((AddrMode.immediate 16 4).address s) 16 ∧ 15 < 16 ∧
    (∀ j < 15, s.launch.inText ((AddrMode.immediate 16 4).address s + BitVec.ofNat 128 j) = false) ∧
    s.launch.inText ((AddrMode.immediate 16 4).address s + BitVec.ofNat 128 15) = true :=
  And.intro rfl (And.intro (And.intro (And.intro rfl (fun _ h => nomatch h)) rfl)
    (And.intro (And.intro (by decide) (by decide)) (by decide)))

theorem wit_FalseGuardSkips :
    (stateAfter (exec (.add true 2 1 3 0) State.reset)).isSome = true ∧
    State.reset.pred (Instr.add true 2 1 3 0).guardField = false ∧ (Instr.add true 2 1 3 0).testsField = false ∧
    (Instr.add true 2 1 3 0).isPrefixWord = false ∧
    memoryOperand (.ldt true 2 4 3 0) = some (.immediate 2 4, 4, false, 0) ∧
    dataStart.PairedFor (Instr.ldt true 2 4 3 0).brk 0 (.immediate 2 4) ∧ dataStart.pred 0 = false :=
  And.intro rfl (And.intro rfl (And.intro rfl (And.intro rfl (And.intro rfl
    (And.intro (And.intro rfl (fun _ h => nomatch h)) rfl)))))

/-- The second clause for a store after a fitting REG, and for a load after a constant prefix, both under P5 = false. -/
theorem wit_FalseGuardSkips_pairs :
    let s := givenPred 5 false { dataStart with pendReg := some ⟨5, 0, 0, 5⟩ }
    let u := givenPred 5 false { dataStart with pendCon := some ⟨[(.con1, 7)], 5⟩ }
    memoryOperand (.stbx true 4 3 5) = some (.indexedByReg 4, 1, true, 5) ∧
    s.PairedFor (Instr.stbx true 4 3 5).brk 5 (.indexedByReg 4) ∧ s.pred 5 = false ∧
    memoryOperand (.ldt true 2 4 3 5) = some (.immediate 2 4, 4, false, 5) ∧
    u.PairedFor (Instr.ldt true 2 4 3 5).brk 5 (.immediate 2 4) ∧ u.pred 5 = false :=
  And.intro rfl (And.intro (And.intro rfl (Exists.intro _ (And.intro rfl (And.intro rfl (And.intro rfl (And.intro rfl rfl))))))
    (And.intro rfl (And.intro rfl (And.intro (And.intro rfl (fun _ h => by cases h; exact And.intro rfl rfl)) rfl))))

theorem wit_RegBecomesPending :
    State.reset.NoPrefix ∧ (breaksBefore State.reset).NoPrefix ∧ (breaksBefore State.reset).launch.breakPolarity = .before :=
  And.intro (And.intro rfl rfl) (And.intro (And.intro rfl rfl) rfl)

theorem wit_ConstantPrefixes :
    State.reset.launch.conA = .refuse ∧ (afterCon (start [])).launch.conA = .free ∧
    (afterCon (start [])).pendReg = none ∧ (afterCon (start [])).pendCon = some ⟨[(.con1, 7)], 1⟩ ∧
    (launched fun l => { l with conA := .free }).pendCon = none := by decide

theorem wit_PrefixMeetsItsUser :
    (stateAfter (exec (.mulU true 3 2 4 1) (afterReg 0 0 5 (start [])))).isSome = true ∧
    (afterReg 0 0 5 (start [])).pendReg = some ⟨0, 0, 5, 1⟩ ∧ (afterCon (start [])).pendCon = some ⟨[(.con1, 7)], 1⟩ ∧
    (Instr.mulU true 3 2 4 1).isPrefixWord = false := by decide

theorem wit_PrefixMeetsItsUser_const : ∃ t, exec (.ldb true 0 1 3 0) { afterCon State.reset with
    pendCon := some ⟨[(.con1, 7)], 0⟩ } = .next t := Exists.intro _ rfl

/-- A step at a REG with its user behind it. -/
theorem wit_PrefixMeetsItsUser_step :
    let s := pairStart none
    s.ended = false ∧ s.decodedAt s.pc = .ok (.reg false 0 0 5 1) ∧ (Instr.reg false 0 0 5 1).isPrefixWord = true ∧
    (stateAfter (step s)).isSome = true := by decide

/-- One witness for each disjunct of `MisfitRegStops`. -/
theorem wit_MisfitRegStops :
    (afterReg 4 5 3 (start [])).pendReg = some ⟨4, 5, 3, 1⟩ ∧ (Instr.add true 2 1 3 1).mayUseReg = false ∧
    (1 : PredNum) ≠ (Instr.mulU true 2 1 3 2).guardField ∧ (4 : RegNum) ≠ 0 ∧ (5 : RegNum) ≠ 0 ∧
    (⟨4, 5, 3, 1⟩ : PendReg).rt = 3 ∧ (3 : RegNum) ≠ 0 := by decide

/-- One state for each way in which a REG has no user: the run ends there, no text, unpopulated, no instruction, an
instruction that cannot use it, another predicate. -/
theorem wit_MisfitRegStops_step :
    let reg := fun s => placed 0x1000 0x05F8000141 s
    let a := pairStart (some 0x1005)
    let b := reg (start [])
    let c := { pairStart none with launch := { (pairStart none).launch with memValid := [⟨0x1000, 9⟩] } }
    let d := reg (placed 0x1005 0x8C00000001 (start []))
    let e := reg (placed 0x1005 0x84200810C1 (start []))
    let f := reg (placed 0x1005 0x84610C2102 (start []))
    (∀ s ∈ [a, b, c, d, e, f], s.ended = false ∧ s.pc ∈ s.launch.text ∧ s.decodedAt s.pc = .ok (.reg false 0 0 5 1) ∧
      ∀ k < 5, s.launch.populated (s.pc + BitVec.ofNat 128 k) = true) ∧
    a.launch.haltIp = some (a.pc + 5) ∧ b.pc + 5 ∉ b.launch.text ∧
    c.launch.populated (c.pc + 5 + BitVec.ofNat 128 4) = false ∧ d.decodedAt (d.pc + 5) = .illegal ∧
    e.decodedAt (e.pc + 5) = .ok (.add true 2 1 3 1) ∧ (Instr.add true 2 1 3 1).mayUseReg = false ∧
    f.decodedAt (f.pc + 5) = .ok (.mulU true 3 2 4 2) ∧ (Instr.mulU true 3 2 4 2).guardField ≠ 1 := by decide

theorem wit_MissingRegRefused : State.reset.NoPrefix := And.intro rfl rfl

theorem wit_OnlyTargetsWritten :
    regAfter 3 (exec (.add true 2 1 3 1) (start [(1, 5), (2, 7)])) = some 12 ∧ (start [(1, 5), (2, 7)]).reg 3 ≠ 12 ∧
    regAfter 5 (exec (.mulU true 3 2 4 1) (afterReg 0 0 5 (start [(2, -1), (3, 2)]))) = some 1 ∧
    (afterReg 0 0 5 (start [(2, -1), (3, 2)])).reg 5 ≠ 1 := by decide

theorem wit_OnlyComparesWritePredicates :
    predAfter 3 (exec (.cmp true .lt 3 2 2 1 1) (start [(1, -1), (2, 1)])) = some false ∧
    (start [(1, -1), (2, 1)]).pred 3 = true := by decide

theorem wit_OnlyStoresWriteMemory :
    dataStart.mem.wf ∧ dataAfter 0x2010 1 (exec (.stb true 16 4 3 1) dataStart) = some 0x34 ∧
    dataStart.byte 0x2010 ≠ 0x34 := by decide

/-- The launch holds the word of V1 at the pc. -/
def oneWord : State := placed 0x1000 0x84200810C1 (start [])

theorem wit_StepRunsDecoded :
    (∀ k < 5, oneWord.launch.populated (oneWord.pc + BitVec.ofNat 128 k) = true) ∧
    oneWord.launch.text.contains oneWord.pc = true ∧
    decodeWith oneWord.launch.layoutC
      (wordOfBytes (oneWord.byte oneWord.pc) (oneWord.byte (oneWord.pc + 1)) (oneWord.byte (oneWord.pc + 2))
        (oneWord.byte (oneWord.pc + 3)) (oneWord.byte (oneWord.pc + 4))) = .ok (.add true 2 1 3 1) ∧
    oneWord.Issues (.add true 2 1 3 1) :=
  And.intro (by decide) (And.intro (by decide) (And.intro (by decide)
    (And.intro rfl (And.intro rfl (And.intro rfl (And.intro rfl rfl))))))

/-- For either clause of `FetchRefused`: the last of the five bytes unpopulated; all populated, no text. -/
theorem wit_FetchRefused :
    let s := atPc 0x202C (withData (start []))
    s.ended = false ∧ (∀ j < 4, s.launch.populated (s.pc + BitVec.ofNat 128 j) = true) ∧
    s.launch.populated (s.pc + BitVec.ofNat 128 4) = false ∧
    State.reset.ended = false ∧ (∀ k < 5, State.reset.launch.populated (State.reset.pc + BitVec.ofNat 128 k) = true) ∧
    State.reset.pc ∉ State.reset.launch.text := by decide

theorem wit_RunEndsAtHaltIp : (launched fun l => { l with haltIp := some 0x1000 }).launch.haltIp = some 0x1000 := rfl

theorem wit_StepKeepsInvariant : oneWord.Inv ∧ ∃ t, step oneWord = .next t :=
  And.intro ⟨by decide, by decide, by decide, by decide, by decide, by decide, by decide⟩ (Exists.intro _ rfl)

theorem wit_StepKeepsProgramText :
    oneWord.Inv ∧ (∃ t, step oneWord = .next t) ∧ oneWord.launch.inText 0x1000 = true ∧
    oneWord.launch.inText 0x1004 = true :=
  And.intro wit_StepKeepsInvariant.1 (And.intro wit_StepKeepsInvariant.2 (by decide))

/-- A word of REG one instruction before the pc. -/
theorem wit_JumpOntoUserStops :
    let s := atPc 0x1005 (placed 0x1000 0x05F8144181 (start []))
    s.NoPrefix ∧ s.ended = false ∧ s.pc - 5 ∈ s.launch.text ∧ s.decodedAt (s.pc - 5) = .ok (.reg false 5 4 6 1) :=
  And.intro (And.intro rfl rfl) (And.intro rfl (by decide))

/-- ADD R3 and NOP without a break, then OR R6, R3, R0: the word two before it. -/
theorem wit_GroupDependencyStops :
    let s := atPc 0x100A (placed 0x1000 0x04200810C1 (placed 0x1005 0x7800000000 (placed 0x100A 0x8448003185 (start []))))
    s.ended = false ∧ s.launch.breakPolarity = .after ∧ 2 ≤ s.launch.text.length ∧
    (s.back 1 ∈ s.launch.text ∧ (s.wordAt (s.back 1)).getLsbD 39 = false) ∧
    (s.back 2 ∈ s.launch.text ∧ (s.wordAt (s.back 2)).getLsbD 39 = false) ∧
    s.decodedAt (s.back 2) = .ok (.add false 2 1 3 1) ∧ (footprint s.launch (.add false 2 1 3 1)).isPrefix = false ∧
    s.decodedAt s.pc = .ok (.or true 0 3 6 5) ∧ 3 ∈ (footprint s.launch (.add false 2 1 3 1)).regWrites ∧
    3 ∈ (footprint s.launch (.or true 0 3 6 5)).regReads := by decide

/-- The second alternative, predicates, at the word right before: CMP to P2 without a break, then an instruction under P2. -/
theorem wit_GroupDependencyStops_pred :
    let s := atPc 0x1005 (placed 0x1000 0x2003082041 (placed 0x1005 0x84200810C2 (start [])))
    s.ended = false ∧ s.back 1 ∈ s.launch.text ∧ s.decodedAt (s.back 1) = .ok (.cmp false .lt 3 2 2 1 1) ∧
    (s.wordAt (s.back 1)).getLsbD 39 = false ∧ (footprint s.launch (.cmp false .lt 3 2 2 1 1)).isPrefix = false ∧
    s.decodedAt s.pc = .ok (.add true 2 1 3 2) ∧ 2 ∈ (footprint s.launch (.cmp false .lt 3 2 2 1 1)).predWrites ∧
    2 ∈ (footprint s.launch (.add true 2 1 3 2)).predReads := by decide

/-- A REG as the earlier word: its target R5 is read two words later, behind its user (condition (e)). -/
theorem wit_GroupDependencyStops_pair :
    let s := atPc 0x100A (placed 0x1000 0x05F8000141 (placed 0x1005 0x04610C2101 (placed 0x100A 0x8448005181 (start []))))
    s.ended = false ∧ (s.back 1 ∈ s.launch.text ∧ (s.wordAt (s.back 1)).getLsbD 39 = false) ∧
    (s.back 2 ∈ s.launch.text ∧ (s.wordAt (s.back 2)).getLsbD 39 = false) ∧
    s.decodedAt (s.back 1) = .ok (.mulU false 3 2 4 1) ∧ (footprint s.launch (.mulU false 3 2 4 1)).isPrefix = false ∧
    s.decodedAt (s.back 2) = .ok (.reg false 0 0 5 1) ∧ 5 ∈ (footprint s.launch (.reg false 0 0 5 1)).regWrites ∧
    s.decodedAt s.pc = .ok (.or true 0 5 6 1) ∧ 5 ∈ (footprint s.launch (.or true 0 5 6 1)).regReads := by decide

/-- BZ without a break at 0x1000, a word behind it; then the pc at either. -/
theorem wit_GroupBranchIsLast :
    let s := placed 0x1000 0x1C00000502 (placed 0x1005 0xF800000001 (start []))
    let u := atPc 0x1005 s
    s.ended = false ∧ s.launch.breakPolarity = .after ∧ (footprint Launch.reset (.bz false 20 2)).branch = true ∧
    s.decodedAt s.pc = .ok (.bz false 20 2) ∧ (s.wordAt s.pc).getLsbD 39 = false ∧ s.pc + 5 ∈ s.launch.text ∧
    u.decodedAt (u.pc - 5) = .ok (.bz false 20 2) ∧ (u.wordAt (u.pc - 5)).getLsbD 39 = false ∧
    u.pc - 5 ∈ u.launch.text := by decide

/-- A tetra was stored at 0x200E; a load of the tetra at 0x2010 shares two bytes with it. -/
theorem wit_GroupOverlapStops :
    let s := { placed 0x1000 0xC8004040C1 (start [(4, 0x2000)]) with groupAccesses := [⟨0x200E, 4, true⟩] }
    s.ended = false ∧ s.launch.breakPolarity = .after ∧ s.decodedAt s.pc = .ok (.ldt true 16 4 3 1) ∧
    memoryOperand (.ldt true 16 4 3 1) = some (.immediate 16 4, 4, false, 1) ∧ s.pred 1 = true ∧
    ⟨0x200E, 4, true⟩ ∈ s.groupAccesses ∧ (0x2011 - 0x200E : Addr).toNat < 4 ∧
    (0x2011 - (AddrMode.immediate 16 4).address s).toNat < 4 := by decide

/-- A load without a break, which keeps what was remembered. -/
theorem wit_GroupOverlapStops_remembers :
    let s := { placed 0x1000 0x48004040C1 (start [(4, 0x2000)]) with groupAccesses := [⟨0x3000, 4, true⟩] }
    s.ended = false ∧ s.decodedAt s.pc = .ok (.ldt false 16 4 3 1) ∧ (Instr.ldt false 16 4 3 1).brk = false ∧
    (footprint s.launch (.ldt false 16 4 3 1)).branch = false ∧ (stateAfter (step s)).isSome = true ∧
    (stateAfter (step s)).map (·.groupAccesses) = some [⟨0x3000, 4, true⟩, ⟨0x2010, 4, false⟩] := by decide

theorem wit_BreakEndsGroup :
    let s := atPc 0x1005 (placed 0x1000 0x84200810C1 (placed 0x1005 0x84200810C1 (start [])))
    s.launch.breakPolarity = .after ∧ (s.wordAt (s.pc - 5)).getLsbD 39 = true ∧ (s.wordAt s.pc).getLsbD 39 = true ∧
    s.groupAccesses = [] ∧ (Instr.add true 2 1 3 1).brk = true := by decide

theorem wit_FiniteData : (0xFF8FF3FCFF3FCFF3FCFF#80).extractLsb' 70 9 ≠ 511 := by decide

end Sys2Proof.Tests
end

section
/-! PROOFS. The scope rules (00_scope.md): the hard-wired registers (R7) and the guard (R8), with what a load or store is
in terms of its addressing mode. -/

namespace Sys2Proof.Machine

/-! ## Writes of the hard-wired registers (R21, R25) -/

@[simp] theorem State.setReg_zero (s : State) (v : Word) : s.setReg 0#6 v = s := if_pos rfl
@[simp] theorem State.setPred_zero (s : State) (b : Bool) : s.setPred 0#6 b = s := if_pos (.inl rfl)
@[simp] theorem State.setPred_one (s : State) (b : Bool) : s.setPred 1#6 b = s := if_pos (.inr rfl)

/-- Settles O52: the reads by the laws of the state, the writes by those above. -/
theorem hardwiredRegisters : Obligations.HardwiredRegisters := fun s v b =>
  ⟨s.reg_zero, s.pred_zero, s.pred_one, s.setReg_zero v, s.setPred_zero b, s.setPred_one b⟩

/-! ## Loads and stores by their addressing mode -/

/-- The pairing check that loads and stores of this addressing mode make (R250). -/
def AddrMode.pairing (m : AddrMode) (s : State) (brk : Bool) (pr : PredNum) : Option Refusal :=
  match m with
  | .immediate _ _ => s.pairConst brk pr
  | .indexed _ _ => s.pairNone
  | .indexedByReg _ => s.pairMustReg brk pr fitsStore

theorem AddrMode.pairing_eq_none {m : AddrMode} {s : State} {brk : Bool} {pr : PredNum} :
    m.pairing s brk pr = none ↔ s.PairedFor brk pr m := by
  cases m with
  | immediate imm ra => exact pairConst_eq_none
  | indexed rb ra => exact pairNone_eq_none
  | indexedByReg ra => simp [AddrMode.pairing, State.PairedFor, pairMustReg_eq_none, fitsStore]

/-- An instruction that accesses memory is a load or a store with its own operand, size and guard (R210, R240). -/
theorem exec_of_memoryOperand {i : Instr} {m : AddrMode} {n : Nat} {isStore : Bool} {pr : PredNum}
    (h : memoryOperand i = some (m, n, isStore, pr)) (s : State) :
    (isStore = false ∧ ∃ e rt, exec i s = load e n m rt (m.pairing s i.brk pr) pr s) ∨
      (isStore = true ∧ ∃ rs, exec i s = store n m rs (m.pairing s i.brk pr) pr s) := by
  cases i with
  | ldb | ldw | ldt | ldo | ldh | ldbx | ldwx | ldtx | ldox | ldhx => cases h; exact .inl ⟨rfl, .sign, _, rfl⟩
  | ldbu | ldwu | ldtu | ldou | ldbux | ldwux | ldtux | ldoux => cases h; exact .inl ⟨rfl, .zero, _, rfl⟩
  | stb | stw | stt | sto | sth | stbx | stwx | sttx | stox | sthx => cases h; exact .inr ⟨rfl, _, rfl⟩
  | _ => cases h

/-! ## The guard (R8) -/

theorem not_executed_of_false {i : Instr} {s : State} (hg : s.pred i.guardField = false) : ¬ Executed i s :=
  fun he => Bool.false_ne_true (hg.symm.trans he.guard)

/-- What completes under a false guard goes to the next instruction: of the forms of a next state only those that retire
without executing are left. -/
theorem exec_next_of_false {i : Instr} {s t : State} (h : exec i s = .next t) (hg : s.pred i.guardField = false)
    (ht : i.testsField = false) (hp : i.isPrefixWord = false) : t = s.retire := by
  cases exec_next h with
  | skipped | nop => rfl
  | wrote _ _ he | wroteBoth _ _ _ he | compared _ _ _ he | called _ _ he | stored _ _ _ he =>
    exact absurd he (not_executed_of_false hg)
  | branched _ _ ht' => cases ht.symm.trans ht'
  | regPending _ hp' | conPending _ hp' => cases hp.symm.trans hp'

/-- A load or store that is paired as it must be and has a false guard makes no access: the guard comes before the checks
of the address (R294). -/
theorem exec_of_memoryOperand_of_false {i : Instr} {s : State} {m : AddrMode} {n : Nat} {isStore : Bool} {pr : PredNum}
    (hm : memoryOperand i = some (m, n, isStore, pr)) (hp : s.PairedFor i.brk pr m) (hg : s.pred pr = false) :
    exec i s = .next s.retire := by
  have hn := AddrMode.pairing_eq_none.2 hp
  obtain ⟨-, e, rt, he⟩ | ⟨-, rs, he⟩ := exec_of_memoryOperand hm s <;> exact he.trans (issue_of_false hn hg)

/-- Settles O36: both clauses end in the state that retires, whose effect is that of going on. -/
theorem falseGuardSkips : Obligations.FalseGuardSkips := by
  refine ⟨fun s t i h hg ht hp => ?_, fun s i m n isStore pr hm hp hg => ?_⟩
  · rw [exec_next_of_false h hg ht hp]
    exact retire_effect s
  · exact ⟨s.retire, exec_of_memoryOperand_of_false hm hp hg, retire_effect s⟩

end Sys2Proof.Machine
end

section
/-! PROOFS. The machine state (10_state.md): what an instruction writes and what it leaves alone (R21, R23, R25, R26), where
it goes on (R28, R36), the prefixes pending between two instructions (R34), and the invariant at reset and after every step
(R37). Each statement about every instruction is read off the forms of a next state, `exec_next`. -/

namespace Sys2Proof.Machine

/-! ## Where an instruction goes on (R28, R195) -/

theorem State.next_eq_moved (s : State) : s.next = moved s.pc 5 := by
  simp [State.next, Config.ipStride, moved, BitVec.ofInt_add]

theorem State.target_eq_moved (s : State) (disp : BitVec 27) : s.target disp = moved s.pc disp.toInt := by
  simp [State.target, moved, BitVec.signExtend, BitVec.ofInt_add]

theorem State.next_toNat (s : State) : s.next.toNat = (s.pc.toNat + 5) % 2 ^ 128 :=
  BitVec.toNat_add s.pc Config.ipStride

/-- `i` is a taken branch or jump: a BSR or JMR that executes, or a branch whose test holds (R28, R196 to R200). -/
def TakesBranch (i : Instr) (s : State) : Prop :=
  (footprint s.launch i).branch = true ∧
    (Executed i s ∨ (∃ brk disp pr, i = .bnz brk disp pr ∧ s.branchNonZero pr = true) ∨
      (∃ brk disp pr, i = .bz brk disp pr ∧ s.branchNonZero pr = false) ∨ ∃ brk disp, i = .bra brk disp)

/-- What is not a taken branch or jump goes to the next instruction. -/
theorem exec_pc_of_not_takesBranch {i : Instr} {s t : State} (h : exec i s = .next t) (hn : ¬ TakesBranch i s) :
    t.pc = s.next := by
  cases exec_next h with
  | skipped | nop | wrote | wroteBoth | compared | stored | regPending | conPending => simp
  | called r a he hw hb => exact absurd ⟨hb, .inl he⟩ hn
  | branched disp taken ht hs hb hk =>
    cases taken with
    | false => rfl
    | true =>
      refine absurd ⟨hb, .inr ?_⟩ hn
      obtain ⟨brk, pr, hi, hz⟩ | ⟨brk, pr, hi, hz⟩ | ⟨brk, hi, -⟩ := hk
      · exact .inl ⟨brk, disp, pr, hi, hz.symm⟩
      · exact .inr (.inl ⟨brk, disp, pr, hi, by simpa using hz⟩)
      · exact .inr (.inr ⟨brk, disp, hi⟩)

theorem TakesBranch.bnz {s : State} {brk : Bool} {disp : BitVec 27} {pr : PredNum} (h : TakesBranch (.bnz brk disp pr) s) :
    s.branchNonZero pr = true := by
  obtain ⟨-, he | ⟨_, _, _, hi, hz⟩ | ⟨_, _, _, hi, -⟩ | ⟨_, _, hi⟩⟩ := h
  · cases he.guarded
  · cases hi; exact hz
  · cases hi
  · cases hi

theorem TakesBranch.bz {s : State} {brk : Bool} {disp : BitVec 27} {pr : PredNum} (h : TakesBranch (.bz brk disp pr) s) :
    s.branchNonZero pr = false := by
  obtain ⟨-, he | ⟨_, _, _, hi, -⟩ | ⟨_, _, _, hi, hz⟩ | ⟨_, _, hi⟩⟩ := h
  · cases he.guarded
  · cases hi
  · cases hi; exact hz
  · cases hi

/-- A taken branch or jump that tests no field is guarded, and its guard is true. -/
theorem TakesBranch.executed {i : Instr} {s : State} (h : TakesBranch i s) (ht : i.testsField = false) : Executed i s := by
  obtain ⟨-, he | ⟨_, _, _, rfl, -⟩ | ⟨_, _, _, rfl, -⟩ | ⟨_, _, rfl⟩⟩ := h
  · exact he
  all_goals cases ht

/-- Settles O26: in none of the cases the instruction is a taken branch or jump. -/
theorem advanceByFive : Obligations.AdvanceByFive := by
  intro s t i h hcase
  rw [← s.next_toNat, exec_pc_of_not_takesBranch h]
  intro hk
  obtain hb | ⟨ht, hg⟩ | ⟨brk, disp, pr, rfl, hz⟩ | ⟨brk, disp, pr, rfl, hz⟩ := hcase
  · cases hb.symm.trans hk.1
  · exact not_executed_of_false hg (hk.executed ht)
  · cases hz.symm.trans hk.bnz
  · cases hz.symm.trans hk.bz

/-- What a call to `a` leaves behind: the address of the next instruction in its link register (R36). -/
theorem link_effect (s : State) (r : RegNum) (a : Addr) :
    Effect s ((s.setReg r s.next).retireTo a) a (regsWith s.reg r s.next) s.pred s.byte := by
  constructor <;> simp

/-- Settles O24: both calls execute, and link before they go on. -/
theorem callsLink : Obligations.CallsLink := by
  intro s brk disp ra rt pr ⟨hn, hg⟩ next
  have hp : s.pairNone = none := pairNone_eq_none.2 hn
  have hnext : next = s.next := s.next_eq_moved.symm
  rw [hnext, ← s.target_eq_moved]
  exact ⟨⟨_, issue_of_true hp hg, link_effect s 1 (s.target disp)⟩, ⟨_, issue_of_true hp hg, link_effect s rt (s.reg ra)⟩⟩

/-! ## Which registers and predicates change (R21, R23, R25, R26) -/

theorem State.reg_setReg_ne {s : State} {q r : RegNum} {v : Word} (h : (s.setReg q v).reg r ≠ s.reg r) : r ≠ 0 ∧ r = q := by
  rw [State.setReg_reg, regsWith] at h
  split at h
  · subst r; exact absurd s.reg_zero.symm h
  · split at h
    · exact ⟨‹_›, ‹_›⟩
    · exact absurd rfl h

theorem State.reg_setRegT_ne {s : State} {r : RegNum} {v : Word} (h : (s.setRegT v).reg r ≠ s.reg r) :
    r ≠ 0 ∧ ∃ p, s.pendReg = some p ∧ r = p.rt := by
  cases hp : s.pendReg with
  | none => rw [State.setRegT_of_none hp] at h; exact absurd rfl h
  | some p =>
    rw [State.setRegT_of_some hp] at h
    obtain ⟨h0, hr⟩ := State.reg_setReg_ne h
    exact ⟨h0, p, rfl, hr⟩

theorem State.pred_setPred_ne {s : State} {q p : PredNum} {b : Bool} (h : (s.setPred q b).pred p ≠ s.pred p) :
    p ≠ 0 ∧ p ≠ 1 ∧ p = q := by
  rw [State.setPred_pred, predsWith] at h
  split at h
  · subst p; exact absurd s.pred_zero.symm h
  · split at h
    · subst p; exact absurd s.pred_one.symm h
    · split at h
      · exact ⟨‹_›, ‹_›, ‹_›⟩
      · exact absurd rfl h

/-- Two writes of predicates change the two they name at most. -/
theorem State.pred_setPred_setPred_ne {s : State} {q q' p : PredNum} {b b' : Bool}
    (h : ((s.setPred q b).setPred q' b').pred p ≠ s.pred p) : p ≠ 0 ∧ p ≠ 1 ∧ (p = q ∨ p = q') := by
  by_cases hq : ((s.setPred q b).setPred q' b').pred p = (s.setPred q b).pred p
  · obtain ⟨h0, h1, hp⟩ := State.pred_setPred_ne (hq ▸ h)
    exact ⟨h0, h1, .inl hp⟩
  · obtain ⟨h0, h1, hp⟩ := State.pred_setPred_ne hq
    exact ⟨h0, h1, .inr hp⟩

theorem State.pred_writeTargets_ne {s : State} {pt1 pt2 p : PredNum} {b : Bool}
    (h : (s.writeTargets pt1 pt2 b).pred p ≠ s.pred p) : p ≠ 0 ∧ p ≠ 1 ∧ (p = pt1 ∨ p = pt2) := by
  unfold State.writeTargets at h
  split at h
  · exact State.pred_setPred_setPred_ne h
  · exact State.pred_setPred_setPred_ne h
  · obtain ⟨h0, h1, hp⟩ := State.pred_setPred_ne h
    exact ⟨h0, h1, .inl hp⟩

/-- Settles O42: the forms that write registers write a target of the word, or that of the REG before a user of REG. -/
theorem onlyTargetsWritten : Obligations.OnlyTargetsWritten := by
  intro s t i r h hr
  cases exec_next h with
  | skipped | nop | branched | stored | regPending | conPending => exact absurd rfl hr
  | compared pt1 pt2 b => exact absurd (s.writeTargets_reg pt1 pt2 b r) hr
  | wrote rt v he hw | called rt a he hw =>
    obtain ⟨h0, rfl⟩ := State.reg_setReg_ne hr
    exact ⟨h0, .inl hw⟩
  | wroteBoth rt lo hi he hu hw =>
    by_cases hT : ((s.setReg rt lo).setRegT hi).reg r = (s.setReg rt lo).reg r
    · obtain ⟨h0, rfl⟩ := State.reg_setReg_ne (hT ▸ hr)
      exact ⟨h0, .inl hw⟩
    · obtain ⟨h0, p, hp, hrt⟩ := State.reg_setRegT_ne hT
      exact ⟨h0, .inr ⟨hu, p, by simpa using hp, hrt⟩⟩

/-- Settles O43: a compare is the one form whose predicates are not those before it. -/
theorem onlyComparesWritePredicates : Obligations.OnlyComparesWritePredicates := by
  intro s t i p h hp
  cases exec_next h with
  | skipped | nop | branched | stored | regPending | conPending => exact absurd rfl hp
  | wrote rt v | called rt a => exact absurd (s.setReg_pred rt _ p) hp
  | wroteBoth rt lo hi => exact absurd (((s.setReg rt lo).setRegT_pred hi p).trans (s.setReg_pred rt lo p)) hp
  | compared pt1 pt2 b he hc hq =>
    obtain ⟨h0, h1, rfl | rfl⟩ := State.pred_writeTargets_ne hp
    · exact ⟨hc, h0, h1, pt2, .inl hq⟩
    · exact ⟨hc, h0, h1, pt1, .inr hq⟩

/-! ## The invariant -/

theorem State.Inv.retireTo {s : State} (h : s.Inv) (a : Addr) : (s.retireTo a).Inv where
  memory := h.memory
  regZero := h.regZero
  predFalse := h.predFalse
  predTrue := h.predTrue
  carry := h.carry
  onePrefix := .inl rfl
  conRefused _ := rfl

theorem State.Inv.setReg {s : State} (h : s.Inv) (r : RegNum) (v : Word) : (s.setReg r v).Inv where
  memory := by simpa only [State.setReg_mem] using h.memory
  regZero := by simpa only [State.setReg_regZero] using h.regZero
  predFalse := by simpa only [State.setReg_preds] using h.predFalse
  predTrue := by simpa only [State.setReg_preds] using h.predTrue
  carry := by simpa only [State.setReg_pendCarry] using h.carry
  onePrefix := by simpa only [State.setReg_pendReg, State.setReg_pendCon] using h.onePrefix
  conRefused := by simpa only [State.setReg_launch, State.setReg_pendCon] using h.conRefused

theorem State.Inv.setRegT {s : State} (h : s.Inv) (v : Word) : (s.setRegT v).Inv := by
  cases hp : s.pendReg with
  | none => rwa [State.setRegT_of_none hp]
  | some p => rw [State.setRegT_of_some hp]; exact h.setReg p.rt v

theorem State.Inv.setPred {s : State} (h : s.Inv) (p : PredNum) (b : Bool) : (s.setPred p b).Inv where
  memory := by simpa only [State.setPred_mem] using h.memory
  regZero := by simpa only [State.setPred_regs] using h.regZero
  predFalse := by simpa only [State.setPred_predZero] using h.predFalse
  predTrue := by simpa only [State.setPred_predOne] using h.predTrue
  carry := by simpa only [State.setPred_pendCarry] using h.carry
  onePrefix := by simpa only [State.setPred_pendReg, State.setPred_pendCon] using h.onePrefix
  conRefused := by simpa only [State.setPred_launch, State.setPred_pendCon] using h.conRefused

theorem State.Inv.writeTargets {s : State} (h : s.Inv) (pt1 pt2 : PredNum) (b : Bool) : (s.writeTargets pt1 pt2 b).Inv := by
  unfold State.writeTargets
  split
  · exact (h.setPred pt1 b).setPred pt2 (!b)
  · exact (h.setPred pt1 b).setPred pt2 b
  · exact h.setPred pt1 b

theorem State.Inv.withMem {s : State} (h : s.Inv) {m : Memory} (hm : m.wf) : State.Inv { s with mem := m } :=
  { h with memory := hm }

theorem State.Inv.closeStep {t : State} (h : t.Inv) (i : Instr) (s : State) : (s.closeStep i t).Inv :=
  { h with }

/-- A REG becomes pending where nothing was. -/
theorem State.Inv.withPendReg {s : State} (h : s.Inv) (hn : s.NoPrefix) (a : Addr) (p : PendReg) :
    State.Inv { s with pc := a, pendReg := some p } :=
  { h with onePrefix := .inr hn.2 }

/-- Constant prefixes become pending where no REG is and CON_A admits them. -/
theorem State.Inv.withPendCon {s : State} (h : s.Inv) (hr : s.pendReg = none) (hf : s.launch.conA = .free) (a : Addr)
    (p : PendCon) : State.Inv { s with pc := a, pendCon := some p } :=
  { h with
    onePrefix := .inl hr
    conRefused := fun hc => nomatch hf.symm.trans hc }

/-- Every instruction keeps the invariant: each form of a next state is made of writes that keep it. -/
theorem State.Inv.exec {i : Instr} {s t : State} (hs : s.Inv) (h : exec i s = .next t) : t.Inv := by
  cases exec_next h with
  | skipped | nop => exact hs.retireTo _
  | wrote rt v => exact (hs.setReg rt v).retireTo _
  | wroteBoth rt lo hi => exact ((hs.setReg rt lo).setRegT hi).retireTo _
  | compared pt1 pt2 b => exact (hs.writeTargets pt1 pt2 b).retireTo _
  | branched disp taken => exact hs.retireTo _
  | called r a => exact (hs.setReg r s.next).retireTo a
  | stored m n v => exact (hs.withMem (storeBytes_wf hs.memory _ v n)).retireTo _
  | regPending p _ hn => exact hs.withPendReg hn _ p
  | conPending p _ hr hf => exact hs.withPendCon hr hf _ p

/-- Settles O49: a step is `exec`, with the accesses of the group brought up to date, or nothing at the end of a run. -/
theorem stepKeepsInvariant : Obligations.StepKeepsInvariant := by
  intro s u hs h
  obtain ⟨-, rfl⟩ | ⟨-, i, t, -, -, -, ht, rfl, -⟩ := step_next h
  · exact hs
  · exact (hs.exec ht).closeStep i s

theorem reset_inv : State.reset.Inv where
  memory := reset_memory_wf
  regZero := rfl
  predFalse := rfl
  predTrue := rfl
  carry := rfl
  onePrefix := .inl rfl
  conRefused _ := rfl

/-- Settles O50: the invariant field by field, and the hard-wired reads, which hold in every state. -/
theorem resetHasInvariant : Obligations.ResetHasInvariant :=
  ⟨reset_inv, State.reg_zero _, State.pred_zero _, State.pred_one _, rfl, rfl, rfl⟩

/-! ## A REG becomes pending (R34, R257) -/

theorem cutsNext_eq_false {s : State} {brk : Bool} :
    s.cutsNext brk = false ↔ (brk = true → s.launch.breakPolarity = .before) := by
  unfold State.cutsNext
  cases brk <;> cases s.launch.breakPolarity <;> simp

theorem execReg_of_noPrefix {s : State} (hn : s.NoPrefix) {brk : Bool} (hb : s.cutsNext brk = false)
    (rb ra rt : RegNum) (pr : PredNum) :
    execReg brk rb ra rt pr s = .next { s with pc := s.next, pendReg := some ⟨ra, rb, rt, pr⟩ } := by
  simp [execReg, hb, pairNone_eq_none.2 hn]

/-- Settles O37: neither check of a REG refuses it, and its predicate is not asked. -/
theorem regBecomesPending : Obligations.RegBecomesPending := by
  intro s brk rb ra rt pr hn hb
  rw [← s.next_eq_moved]
  exact execReg_of_noPrefix hn (cutsNext_eq_false.2 hb) rb ra rt pr

/-! ## Pending prefixes meet their users (R250, R258) -/

/-- `i` may use what is pending in `s`: it is a user of it, carries its predicate, and no break cuts it off. -/
structure UsesPending (i : Instr) (s : State) : Prop where
  reg : ∀ p, s.pendReg = some p → i.mayUseReg = true ∧ p.pr = i.guardField ∧ s.cutOff i.brk = false
  con : ∀ p, s.pendCon = some p → i.mayUseConst = true ∧ p.pr = i.guardField ∧ s.cutOff i.brk = false

section
variable {i : Instr} {s : State} {pr : PredNum} {fits : PendReg → Bool}

theorem UsesPending.of_noPrefix (h : s.NoPrefix) : UsesPending i s where
  reg _ hp := nomatch h.1.symm.trans hp
  con _ hp := nomatch h.2.symm.trans hp

theorem UsesPending.of_pairNone (h : s.pairNone = none) : UsesPending i s :=
  .of_noPrefix (pairNone_eq_none.1 h)

theorem UsesPending.of_pairConst (h : s.pairConst i.brk pr = none) (hg : i.guardField = pr) (hu : i.mayUseConst = true) :
    UsesPending i s := by
  subst hg
  obtain ⟨hr, hc⟩ := pairConst_eq_none.1 h
  exact ⟨fun _ hp => (nomatch hr.symm.trans hp), fun p hp => ⟨hu, hc p hp⟩⟩

theorem UsesPending.of_pairMayReg (h : s.pairMayReg i.brk pr fits = none) (hg : i.guardField = pr)
    (hu : i.mayUseReg = true) : UsesPending i s := by
  subst hg
  obtain ⟨hc, hr⟩ := pairMayReg_eq_none.1 h
  refine ⟨fun p hp => ?_, fun _ hp => nomatch hc.symm.trans hp⟩
  obtain ⟨hpr, hcut, -⟩ := hr p hp
  exact ⟨hu, hpr, hcut⟩

theorem UsesPending.of_pairMustReg (h : s.pairMustReg i.brk pr fits = none) (hg : i.guardField = pr)
    (hu : i.mayUseReg = true) : UsesPending i s := by
  subst hg
  obtain ⟨hc, p, hp, hpr, hcut, -⟩ := pairMustReg_eq_none.1 h
  refine ⟨fun q hq => ?_, fun _ hq => nomatch hc.symm.trans hq⟩
  obtain rfl := Option.some.inj (hp.symm.trans hq)
  exact ⟨hu, hpr, hcut⟩

theorem UsesPending.of_pairMayRegOrConst (h : s.pairMayRegOrConst i.brk pr fits = none) (hg : i.guardField = pr)
    (hu : i.mayUseReg = true) (hc : i.mayUseConst = true) : UsesPending i s := by
  obtain ⟨-, h⟩ | ⟨-, h⟩ := pairMayRegOrConst_eq_none.1 h
  · exact .of_pairConst h hg hc
  · exact .of_pairMayReg h hg hu

end

theorem execNop_next {brk : Bool} {ignored : BitVec 33} {s t : State} (h : execNop brk ignored s = .next t) :
    s.NoPrefix ∧ t = s.retire := by
  unfold execNop at h
  split at h
  · cases h
  · exact ⟨pairNone_eq_none.1 ‹_›, (Host.Outcome.next.inj h).symm⟩

/-- Every instruction that completes may use what was pending: of each, its own pairing check has passed. -/
theorem exec_usesPending {i : Instr} {s t : State} (h : exec i s = .next t) : UsesPending i s := by
  cases i with
  | sys | mod | flt | fcmp | cmp19 | fcmpi | cmpi23 | fdp | ffdp | fseti | fset | ldhr | ldhrx | ldchk | sthc | sthcx | srlE
    | srlEi | sraE | sraEi | csr | carry => exact nomatch h
  | add | sub | and | or | xor | nand | nor | xnor | sll | slli | srl | srli | sra | srai =>
    exact .of_pairNone (writeReg_next h).1
  | addi | subfi | andi | ori | xori => exact .of_pairConst (writeReg_next h).1 (packRI_pr _ _ _ _ _ _) rfl
  | set | setu =>
    obtain ⟨-, hp, -⟩ := setTo_next h
    exact .of_pairNone hp
  | seti | setui =>
    obtain ⟨-, hp, -⟩ := setTo_next h
    exact .of_pairConst hp (packSetI_pr _ _ _ _ _ _ _) rfl
  | cmp | cmpu =>
    obtain ⟨-, -, hp, -⟩ := compareTo_next h
    exact .of_pairNone hp
  | cmpi | cmpui =>
    obtain ⟨-, -, hp, -⟩ := compareTo_next h
    exact .of_pairConst hp (packCmp_pr _ _ _ _ _ _ _ _) rfl
  | bnz | bz | bra => exact .of_noPrefix (branchIf_next h).1
  | bsr | jmr => exact .of_pairNone (issue_next h).1
  | nop brk ignored => exact .of_noPrefix (execNop_next (brk := brk) (ignored := ignored) h).1
  | ldbx | ldbux | ldwx | ldwux | ldtx | ldtux | ldox | ldoux | ldhx => exact .of_pairNone (load_next h).1
  | ldb | ldbu | ldw | ldwu | ldt | ldtu | ldo | ldou | ldh =>
    exact .of_pairConst (load_next h).1 (packRI_pr _ _ _ _ _ _) rfl
  | stb | stw | stt | sto | sth => exact .of_pairConst (store_next h).1 (packRI_pr _ _ _ _ _ _) rfl
  | stbx | stwx | sttx | stox | sthx => exact .of_pairMustReg (store_next h).1 (packR2_pr _ _ _ _ _ _ _) rfl
  | muli => exact .of_pairMayRegOrConst (writeProduct_next h).1 (packRI_pr _ _ _ _ _ _) rfl rfl
  | mulS | mulU | mulSu => exact .of_pairMayReg (writeProduct_next h).1 (packR2_pr _ _ _ _ _ _ _) rfl
  | mulOp4 | mulOp5 | mulOp6 | mulOp7 => exact .of_pairMustReg (writeProduct_next h).1 (packR2_pr _ _ _ _ _ _ _) rfl
  | sllE => exact .of_pairMustReg (shiftLeftExtended_next h).1 (packR2_pr _ _ _ _ _ _ _) rfl
  | sllEi => exact .of_pairMustReg (shiftLeftExtended_next h).1 (packShiftI_pr _ _ _ _ _ _ _) rfl
  | reg =>
    obtain ⟨-, hn, -⟩ := execReg_next h
    exact .of_noPrefix hn
  | con1 | con2 | con3 | con4 =>
    obtain ⟨-, -, hp, -⟩ := constantChunk_next h
    exact .of_pairConst hp (packBr_pr _ _ _ _) rfl

/-- Nothing is pending after an instruction, but for the prefixes. -/
theorem exec_noPrefix {i : Instr} {s t : State} (h : exec i s = .next t) (hp : i.isPrefixWord = false) : t.NoPrefix := by
  cases exec_next h with
  | regPending _ hp' | conPending _ hp' => cases hp.symm.trans hp'
  | _ => exact ⟨rfl, rfl⟩

/-- The prefixes go to the next instruction and leave something pending, and memory and the launch as they were. -/
theorem exec_next_of_isPrefixWord {i : Instr} {s t : State} (h : exec i s = .next t) (hp : i.isPrefixWord = true) :
    t.pc = s.next ∧ t.mem = s.mem ∧ t.launch = s.launch ∧ ¬ t.NoPrefix := by
  cases exec_next h with
  | regPending p => exact ⟨rfl, rfl, rfl, fun hn => nomatch hn.1⟩
  | conPending p => exact ⟨rfl, rfl, rfl, fun hn => nomatch hn.2⟩
  | skipped _ hp' | nop _ hp' => cases hp.symm.trans hp'
  | wrote _ _ he | wroteBoth _ _ _ he | compared _ _ _ he | called _ _ he | stored _ _ _ he =>
    cases hp.symm.trans he.noPrefixWord
  | branched _ _ _ _ _ hk => obtain ⟨_, _, rfl, -⟩ | ⟨_, _, rfl, -⟩ | ⟨_, rfl, -⟩ := hk <;> cases hp

/-- No instruction writes the launch (R322). -/
theorem exec_launch {i : Instr} {s t : State} (h : exec i s = .next t) : t.launch = s.launch := by
  cases exec_next h <;> simp

/-! ## The word behind the prefixes (R250, R295) -/

theorem ended_eq_false {s : State} : s.ended = false ↔ s.launch.haltIp ≠ some s.pc := by
  unfold State.ended
  cases s.launch.haltIp with
  | none => simp
  | some a => simpa using ne_comm

theorem decodedAt_congr {s t : State} (hm : t.mem = s.mem) (hl : t.launch = s.launch) (a : Addr) :
    t.decodedAt a = s.decodedAt a := by
  simp [State.decodedAt, State.wordAt, State.byte, hm, hl]

theorem instructionAt_eq_some {s : State} {a : Addr} {j : Instr} (h : s.instructionAt a = some j) :
    s.launch.haltIp ≠ some a ∧ s.decodedAt a = .ok j := by
  unfold State.instructionAt at h
  split at h
  · cases h
  · rename_i hc
    split at h
    · cases h
      exact ⟨fun hh => hc (by simp [hh]), ‹_›⟩
    all_goals cases h

theorem guardField_eq_of_joins {s : State} {i j : Instr} (hp : i.isPrefixWord = true) (h : s.joins i j = true) :
    j.guardField = i.guardField := by
  cases i with
  | reg | con1 | con2 | con3 | con4 =>
    simp only [State.joins, Bool.and_eq_true, beq_iff_eq] at h
    obtain ⟨⟨hg, -⟩, -⟩ := h
    exact hg.symm
  | _ => cases hp

theorem footprint_isPrefix {i : Instr} (hp : i.isPrefixWord = true) (l : Launch) : (footprint l i).isPrefix = true := by
  cases i with
  | reg | con1 | con2 | con3 | con4 => rfl
  | _ => cases hp

/-- The prefixes that are not refused have the run go on behind them, at an instruction with their predicate. -/
theorem user_of_followed {s : State} {i : Instr} (hp : i.isPrefixWord = true) (h : s.unfollowed i = false) :
    s.launch.haltIp ≠ some s.next ∧ ∃ j, s.decodedAt s.next = .ok j ∧ j.guardField = i.guardField := by
  simp only [State.unfollowed, footprint_isPrefix hp, Bool.true_and, Bool.not_eq_false', Option.any_eq_true] at h
  obtain ⟨j, hj, hjoin⟩ := h
  obtain ⟨hh, hd⟩ := instructionAt_eq_some hj
  exact ⟨hh, j, hd, guardField_eq_of_joins hp hjoin⟩

theorem settlePair_of_noStop {t : State} (h : t.stopBeforeUser = none) : settlePair t = .next t := by
  unfold State.stopBeforeUser at h
  simp [settlePair, h]

/-- Where something is pending and nothing stops the words it waits for, the word at the pc may use it and its step answers
a next state: the look ahead (log 28) has run it, and what is behind it too. -/
theorem step_of_pending {t : State} {j : Instr} (he : t.ended = false) (hw : ¬ t.NoPrefix) (hs : t.stopBeforeUser = none)
    (hj : t.decodedAt t.pc = .ok j) : UsesPending j t ∧ ∃ u, step t = .next u := by
  obtain hn | ⟨k, u, hk, ha, hu⟩ := pairStop_eq_none hs
  · exact absurd hn hw
  · obtain ⟨-, j', v, hj', -, -, -, -, hv, rfl⟩ := advance_next ha
    obtain rfl : j = j' := Decoded.ok.inj (hj.symm.trans hj')
    have hstop : (t.closeStep j v).stopBeforeUser = none := by
      rw [State.stopBeforeUser, State.closeStep_launch, exec_launch hv, hk]
      exact pairStop_mono hu
    exact ⟨exec_usesPending hv, t.closeStep j v, by simp [step, he, ha, settlePair_of_noStop hstop]⟩

/-- Behind the prefixes that complete, the run goes on at an instruction with their predicate. -/
theorem closeStep_meets_user {s t : State} {i : Instr} (ht : exec i s = .next t) (hp : i.isPrefixWord = true)
    (hf : s.unfollowed i = false) :
    (s.closeStep i t).ended = false ∧
      ∃ j, (s.closeStep i t).decodedAt (s.closeStep i t).pc = .ok j ∧ j.guardField = i.guardField := by
  obtain ⟨hpc, hm, hl, -⟩ := exec_next_of_isPrefixWord ht hp
  obtain ⟨hh, j, hj, hg⟩ := user_of_followed hp hf
  rw [ended_eq_false, State.closeStep_launch, State.closeStep_pc, hl, hpc]
  exact ⟨hh, j, (decodedAt_congr hm hl s.next).trans hj, hg⟩

/-- Settles O39: the first clause by the pairing checks; the second by the check of the word behind it, for the end of
the run and the predicate, and by the look ahead, for the use and the step. -/
theorem prefixMeetsItsUser : Obligations.PrefixMeetsItsUser := by
  refine ⟨fun s t i h => ?_, fun s u i he hi hp h => ?_⟩
  · have huse := exec_usesPending h
    exact ⟨huse.reg, huse.con, exec_noPrefix h⟩
  · obtain ⟨he', -⟩ | ⟨-, i', t, -, hi', ⟨-, -, hf, -⟩, ht, rfl, hstop⟩ := step_next h
    · cases he.symm.trans he'
    obtain rfl : i = i' := Decoded.ok.inj (hi.symm.trans hi')
    obtain ⟨-, -, -, hw⟩ := exec_next_of_isPrefixWord ht hp
    obtain ⟨hend, j, hj, hg⟩ := closeStep_meets_user ht hp hf
    obtain ⟨huse, u, hstep⟩ := step_of_pending hend hw hstop hj
    refine ⟨hend, j, u, hj, hg, ?_, ?_, hstep⟩
    · exact (Option.eq_none_or_eq_some _).imp_right fun ⟨p, hpend⟩ => (huse.reg p hpend).1
    · exact (Option.eq_none_or_eq_some _).imp_right fun ⟨p, hpend⟩ => (huse.con p hpend).1

end Sys2Proof.Machine
end

section
/-! PROOFS. Memory (20_memory.md): the byte order of words and values (R53, R66), what MemRead and MemWrite admit and what
they give (R51, R54 to R56), the loads and stores that complete (R57, R210) and those that are refused (R51, R54, R64), the
bytes that no instruction changes (R64, R322), and the fetch (R66). -/

namespace Sys2Proof

/-! ## The bytes of a word (R53, R66) -/

/-- The five bytes put together: each step joins the next byte to the field below it. -/
theorem wordOfBytes_bits (w : IWord) :
    wordOfBytes (bits w 0 8) (bits w 8 8) (bits w 16 8) (bits w 24 8) (bits w 32 8) = w := by
  have join : ∀ {hi lo m n : Nat}, hi = lo + n → bits w hi m ++ bits w lo n = bits w lo (m + n) :=
    fun h => BitVec.extractLsb'_append_extractLsb'_eq_extractLsb' h
  rw [wordOfBytes, join (hi := 32) (lo := 24) rfl, join (hi := 24) (lo := 16) rfl, join (hi := 16) (lo := 8) rfl,
    join (hi := 8) (lo := 0) rfl]
  exact BitVec.extractLsb'_eq_self

theorem decodeBytes_bytesOfWord (w : IWord) (rest : List Byte) :
    decodeBytes (bytesOfWord w ++ rest) = (decode w, rest) := by
  simp only [bytesOfWord, List.cons_append, List.nil_append, decodeBytes, wordOfBytes_bits]

theorem bits_toNat (w : IWord) (lo n : Nat) : (bits w lo n).toNat = w.toNat / 2 ^ lo % 2 ^ n := by
  rw [bits, BitVec.extractLsb'_toNat, Nat.shiftRight_eq_div_pow]

theorem littleEndian_bytesOfWord (w : IWord) : Machine.littleEndian (bytesOfWord w) = w.toNat := by
  have hw := w.isLt
  simp only [bytesOfWord, Machine.littleEndian, bits_toNat]
  omega

/-- Settles O4: reading the bytes back by joining fields, and their number by the digits to the base 256. -/
theorem wordBytesLittleEndian : Obligations.WordBytesLittleEndian := fun w rest =>
  ⟨decodeBytes_bytesOfWord w rest, littleEndian_bytesOfWord w⟩

end Sys2Proof

namespace Sys2Proof.Machine

/-! ## The addresses of an access (R55) -/

/-- Every address is another one plus its distance from it. -/
theorem add_ofNat_sub (a x : Addr) : a + BitVec.ofNat 128 (x - a).toNat = x := by
  rw [BitVec.ofNat_toNat, BitVec.setWidth_eq, add_sub_cancel]

theorem add_ofNat_sub_toNat (a : Addr) {i : Nat} (hi : i < 2 ^ 128) : (a + BitVec.ofNat 128 i - a).toNat = i := by
  rw [add_sub_cancel_left, BitVec.toNat_ofNat, Nat.mod_eq_of_lt hi]

theorem add_ofNat_add (a : Addr) (i j : Nat) :
    a + BitVec.ofNat 128 i + BitVec.ofNat 128 j = a + BitVec.ofNat 128 (i + j) := by
  rw [BitVec.ofNat_add, add_assoc]

/-- The first byte of an access with a property, by its place. -/
theorem find?_byteAddrs {p : Addr → Bool} {a : Addr} {n k : Nat} (hk : k < n)
    (before : ∀ j < k, p (a + BitVec.ofNat 128 j) = false) (here : p (a + BitVec.ofNat 128 k) = true) :
    (byteAddrs a n).find? p = some (a + BitVec.ofNat 128 k) := by
  have hfirst : (List.range n).find? (p ∘ fun i => a + BitVec.ofNat 128 i) = some k :=
    List.find?_range_eq_some.2 ⟨here, List.mem_range.2 hk, fun j hj => by simp [before j hj]⟩
  rw [byteAddrs, List.find?_map, hfirst, Option.map_some]

/-! ## MemRead and MemWrite (R55, R56) -/

theorem memRead_eq_ok {s : State} {a : Addr} {n : Nat} {v : Word} :
    s.memRead a n = .ok v ↔ s.MayRead a n ∧ v = loadBytes s.mem a n := by
  rw [← admitRead_eq_none, State.memRead]
  cases s.admitRead a n with
  | some r => simp
  | none => simp [eq_comm]

theorem memWrite_eq_ok {s t : State} {a : Addr} {n : Nat} {v : Word} :
    s.memWrite a n v = .ok t ↔ s.MayWrite a n ∧ t = { s with mem := storeBytes s.mem a v n } := by
  rw [← admitWrite_eq_none, State.memWrite]
  cases s.admitWrite a n with
  | some r => simp
  | none => simp [eq_comm]

/-- Each bit of a load lies in one of the bytes, or is zero above them (R53, R55). -/
theorem loadBytes_getLsbD (m : Memory) (a : Addr) (n : Nat) {j : Nat} (hj : j < 128) :
    (loadBytes m a n).getLsbD j =
      (decide (j < 8 * n) && (memByte m (a + BitVec.ofNat 128 (j / 8)).toNat).getLsbD (j % 8)) := by
  induction n generalizing a j with
  | zero => simp [loadBytes]
  | succ n ih =>
    rw [loadBytes, BitVec.getLsbD_or, BitVec.getLsbD_shiftLeft, BitVec.getLsbD_setWidth]
    by_cases hlow : j < 8
    · have h0 : j / 8 = 0 := by omega
      have hm : j % 8 = j := by omega
      have hn : j < 8 * (n + 1) := by omega
      simp [hj, hlow, h0, hm, hn]
    · have hdiv : 1 + (j - 8) / 8 = j / 8 := by omega
      have hmod : (j - 8) % 8 = j % 8 := by omega
      have hn : j - 8 < 8 * n ↔ j < 8 * (n + 1) := by omega
      have haddr : a + 1 + BitVec.ofNat 128 ((j - 8) / 8) = a + BitVec.ofNat 128 (j / 8) := by
        rw [← hdiv]; exact add_ofNat_add a 1 _
      rw [ih (a + 1) (by omega), haddr, hmod, BitVec.getLsbD_of_ge _ j (by omega)]
      simp [hj, hlow, hn]

/-- The bytes of a load are those of memory (R53, R55). -/
theorem extractLsb'_loadBytes (m : Memory) (a : Addr) {n i : Nat} (hn : n ≤ 16) (hi : i < n) :
    (loadBytes m a n).extractLsb' (8 * i) 8 = memByte m (a + BitVec.ofNat 128 i).toNat := by
  refine BitVec.eq_of_getLsbD_eq fun k hk => ?_
  have hdiv : (8 * i + k) / 8 = i := by omega
  have hmod : (8 * i + k) % 8 = k := by omega
  have hlt : 8 * i + k < 8 * n := by omega
  rw [BitVec.getLsbD_extractLsb', loadBytes_getLsbD m a n (by omega), hdiv, hmod]
  simp [hk, hlt]

/-- The sizes of accesses (R57). -/
theorem le_sixteen_of_mem {n : Nat} (h : n ∈ [1, 2, 4, 8, 16]) : n ≤ 16 := by
  simp only [List.mem_cons, List.not_mem_nil, or_false] at h
  omega

/-- Settles O31: MemRead answers the load of an admitted access, whose bytes are those of memory. -/
theorem memReadAdmitsAndReads : Obligations.MemReadAdmitsAndReads := by
  intro s a n hmem
  have hn := le_sixteen_of_mem hmem
  refine ⟨⟨fun h => ⟨_, memRead_ok h⟩, fun ⟨v, hv⟩ => (memRead_eq_ok.1 hv).1⟩, fun v hv => ?_⟩
  obtain ⟨-, rfl⟩ := memRead_eq_ok.1 hv
  exact ⟨loadBytes_lt s.mem a hn, fun i hi => extractLsb'_loadBytes s.mem a hn hi⟩

/-- A byte that a store of `n` bytes wrote holds its part of the value (R53, R56). -/
theorem memByte_storeBytes_of_lt {m : Memory} (h : m.wf) (a : Addr) (v : Word) {n i : Nat} (hn : n ≤ 16) (hi : i < n) :
    memByte (storeBytes m a v n) (a + BitVec.ofNat 128 i).toNat = v.extractLsb' (8 * i) 8 := by
  rw [memByte_storeBytes h a v (by omega), add_ofNat_sub_toNat a (by omega), if_pos hi]

/-- What lies inside a store is loaded as its part of the value (R53, R55, R56). -/
theorem loadBytes_storeBytes {m : Memory} (h : m.wf) (a : Addr) (v : Word) {n i k : Nat} (hn : n ≤ 16) (hk : i + k ≤ n) :
    loadBytes (storeBytes m a v n) (a + BitVec.ofNat 128 i) k =
      BitVec.ofNat 128 (v.toNat / 2 ^ (8 * i) % 2 ^ (8 * k)) := by
  refine BitVec.eq_of_getLsbD_eq fun j hj => ?_
  rw [loadBytes_getLsbD _ _ _ hj, BitVec.getLsbD_ofNat, Nat.testBit_mod_two_pow, Nat.testBit_div_two_pow,
    BitVec.testBit_toNat]
  by_cases hlt : j < 8 * k
  · have hbit : 8 * (i + j / 8) + j % 8 = j + 8 * i := by omega
    rw [add_ofNat_add, memByte_storeBytes_of_lt h a v hn (by omega), BitVec.getLsbD_extractLsb', hbit]
    simp [hj, Nat.mod_lt]
  · simp [hlt]

/-- What lies inside an admitted access is populated, so it may be read if it is aligned or may be split (R51, R54). -/
theorem State.MayRead.part {s : State} {a : Addr} {n i k : Nat} (h : s.MayRead a n) (hk : i + k ≤ n)
    (ha : s.launch.misaligned = .split ∨ (a + BitVec.ofNat 128 i).toNat % k = 0) :
    s.MayRead (a + BitVec.ofNat 128 i) k := by
  obtain ⟨-, hpop⟩ := h
  refine ⟨fun hr => ha.resolve_left fun hs => (nomatch hr.symm.trans hs), fun j hj => ?_⟩
  rw [add_ofNat_add]
  exact hpop (i + j) (by omega)

/-- After a store that MemWrite admits, MemRead of what lies inside it answers that part of the value. -/
theorem memRead_memWrite {s t : State} {a : Addr} {n i k : Nat} {v : Word} (hwf : s.mem.wf) (hn : n ≤ 16)
    (hw : s.memWrite a n v = .ok t) (hk : i + k ≤ n)
    (ha : t.launch.misaligned = .split ∨ (a + BitVec.ofNat 128 i).toNat % k = 0) :
    t.memRead (a + BitVec.ofNat 128 i) k = .ok (BitVec.ofNat 128 (v.toNat / 2 ^ (8 * i) % 2 ^ (8 * k))) := by
  obtain ⟨⟨hr, -⟩, rfl⟩ := memWrite_eq_ok.1 hw
  exact memRead_eq_ok.2 ⟨hr.part hk ha, (loadBytes_storeBytes hwf a v hn hk).symm⟩

/-- An access that may be read is aligned where MISALIGNED does not split (R54). -/
theorem State.MayRead.split_or_aligned {s : State} {a : Addr} {n : Nat} (h : s.MayRead a n) :
    s.launch.misaligned = .split ∨ a.toNat % n = 0 := by
  obtain ⟨ha, -⟩ := h
  cases hm : s.launch.misaligned with
  | refuse => exact .inr (ha hm)
  | split => exact .inl rfl

/-- Settles O32: the whole value is the part at its own address, which is aligned as the write was; a byte always is. -/
theorem readBackWrite : Obligations.ReadBackWrite := by
  intro s t a n v hwf hmem hw
  have hn := le_sixteen_of_mem hmem
  refine ⟨?_, fun i hi => ?_, fun k _ i hk ha => memRead_memWrite hwf hn hw hk ha⟩
  · obtain ⟨⟨hr, -⟩, rfl⟩ := memWrite_eq_ok.1 hw
    simpa using memRead_memWrite (i := 0) hwf hn hw (by omega) (by simpa using hr.split_or_aligned)
  · exact memRead_memWrite hwf hn hw hi (.inr (Nat.mod_one _))

/-! ## The loads and stores that complete (R57, R210) -/

/-- A loaded value as the statements say it: the number its bytes spell, read as signed or not (R53, R57). -/
theorem extend_loadBytes (s : State) (e : Ext) (a : Addr) {n : Nat} (hn : n ≤ 16) :
    e.extend n (loadBytes s.mem a n) = s.loaded e n a := by
  have hnum : littleEndian (s.bytesAt a n) = (loadBytes s.mem a n).toNat := (loadBytes_toNat s.mem a hn).symm
  cases e with
  | sign => rw [Ext.extend, State.loaded, hnum, BitVec.signExtend, BitVec.toInt_setWidth]
  | zero =>
    rw [Ext.extend, State.loaded, hnum, ← BitVec.ofNat_toNat, BitVec.toNat_setWidth,
      Nat.mod_eq_of_lt (loadBytes_lt s.mem a hn)]

/-- A value of the whole machine width is not extended (R57). -/
theorem loaded_sixteen (s : State) (e : Ext) (a : Addr) : s.loaded e 16 a = s.loaded .zero 16 a := by
  rw [← extend_loadBytes s e a (by omega), ← extend_loadBytes s .zero a (by omega)]
  cases e with
  | sign => exact BitVec.signExtend_eq _
  | zero => rfl

section
variable {s : State} {m : AddrMode} {p : Option Refusal} {pr : PredNum}

/-- A load that executes and is admitted writes the extended value to its target and changes nothing else. -/
theorem load_completes (e : Ext) {n : Nat} (rt : RegNum) (hn : n ≤ 16) (hp : p = none) (hg : s.pred pr = true)
    (hr : s.MayRead (m.address s) n) :
    ∃ t, load e n m rt p pr s = .next t ∧
      Effect s t s.next (regsWith s.reg rt (s.loaded e n (m.address s))) s.pred s.byte := by
  refine ⟨(s.setReg rt (e.extend n (loadBytes s.mem (m.address s) n))).retire, ?_, ?_⟩
  · rw [load, issue_of_true hp hg, memRead_ok hr]
  · rw [← extend_loadBytes s e _ hn]
    constructor <;> simp

/-- A store that executes and is admitted changes the bytes it stores to and nothing else. -/
theorem store_completes {n : Nat} (rs : RegNum) (hwf : s.mem.wf) (hn : n ≤ 16) (hp : p = none) (hg : s.pred pr = true)
    (hw : s.MayWrite (m.address s) n) :
    ∃ t, store n m rs p pr s = .next t ∧
      Effect s t s.next s.reg s.pred (bytesWith s.byte (m.address s) n (s.reg rs)) := by
  refine ⟨State.retire { s with mem := storeBytes s.mem (m.address s) (s.reg rs) n }, ?_, ?_⟩
  · rw [store, issue_of_true hp hg, memWrite_ok hw]
  · constructor <;> simp [byte_storeBytes hwf _ _ (show n ≤ 2 ^ 128 by omega)]

end

/-- Settles O27: each is `load_completes` at its extension and size; a hexi is as wide as a register. -/
theorem loadsImmediate : Obligations.LoadsImmediate := by
  intro s brk imm ra rt pr ⟨hreg, hcon, hg⟩ a
  have hp : s.pairConst brk pr = none := pairConst_eq_none.2 ⟨hreg, hcon⟩
  have done (e : Ext) {n : Nat} (hn : n ≤ 16) (hr : s.MayRead a n) :=
    load_completes (m := .immediate imm ra) e rt hn hp hg hr
  have both {n : Nat} (hn : n ≤ 16) (hr : s.MayRead a n) := And.intro (done .sign hn hr) (done .zero hn hr)
  refine ⟨both (by decide), both (by decide), both (by decide), both (by decide), fun hr => ?_⟩
  rw [← loaded_sixteen s .sign]
  exact done .sign le_rfl hr

/-- Settles O28: as the immediate loads, at the sum of two registers. -/
theorem loadsIndexed : Obligations.LoadsIndexed := by
  intro s brk rb ra rt pr ⟨hn, hg⟩ a
  have hp : s.pairNone = none := pairNone_eq_none.2 hn
  have done (e : Ext) {n : Nat} (hn : n ≤ 16) (hr : s.MayRead a n) :=
    load_completes (m := .indexed rb ra) e rt hn hp hg hr
  have both {n : Nat} (hn : n ≤ 16) (hr : s.MayRead a n) := And.intro (done .sign hn hr) (done .zero hn hr)
  refine ⟨both (by decide), both (by decide), both (by decide), both (by decide), fun hr => ?_⟩
  rw [← loaded_sixteen s .sign]
  exact done .sign le_rfl hr

/-- Settles O29: each is `store_completes` at its size. -/
theorem storesImmediate : Obligations.StoresImmediate := by
  intro s brk imm ra rs pr hwf ⟨hreg, hcon, hg⟩ a
  have hp : s.pairConst brk pr = none := pairConst_eq_none.2 ⟨hreg, hcon⟩
  have done {n : Nat} (hn : n ≤ 16) (hw : s.MayWrite a n) :=
    store_completes (m := .immediate imm ra) rs hwf hn hp hg hw
  exact ⟨done (by decide), done (by decide), done (by decide), done (by decide), done le_rfl⟩

/-! ## The accesses that are refused (R51, R54, R64) -/

section
variable {s : State} {i : Instr} {m : AddrMode} {n : Nat} {isStore : Bool} {pr : PredNum} {r : Refusal}

/-- What the checks of a read refuse, loads and stores answer: those of a write begin with them (R294, step 8). -/
theorem exec_of_admitRead (hm : memoryOperand i = some (m, n, isStore, pr)) (hr : s.ReadyFor i.brk pr m)
    (h : s.admitRead (m.address s) n = some r) : exec i s = .refused r := by
  obtain ⟨hp, hg⟩ := hr
  have hn := AddrMode.pairing_eq_none.2 hp
  obtain ⟨-, e, rt, he⟩ | ⟨-, rs, he⟩ := exec_of_memoryOperand hm s
  · rw [he, load, issue_of_true hn hg]
    simp [State.memRead, h]
  · rw [he, store, issue_of_true hn hg]
    simp [State.memWrite, State.admitWrite, h]

/-- What the checks of a write refuse, stores answer. -/
theorem exec_of_admitWrite (hm : memoryOperand i = some (m, n, true, pr)) (hr : s.ReadyFor i.brk pr m)
    (h : s.admitWrite (m.address s) n = some r) : exec i s = .refused r := by
  obtain ⟨hp, hg⟩ := hr
  obtain ⟨hf, -⟩ | ⟨-, rs, he⟩ := exec_of_memoryOperand hm s
  · cases hf
  · rw [he, store, issue_of_true (AddrMode.pairing_eq_none.2 hp) hg]
    simp [State.memWrite, h]

end

theorem admitRead_of_misaligned {s : State} {a : Addr} {n : Nat} (hr : s.launch.misaligned = .refuse)
    (ha : a.toNat % n ≠ 0) : s.admitRead a n = some (.misaligned s.pc a n) :=
  if_pos ⟨hr, ha⟩

/-- The first unpopulated byte is the one reported (log 29). -/
theorem admitRead_of_unpopulated {s : State} {a : Addr} {n k : Nat}
    (ha : s.launch.misaligned = .split ∨ a.toNat % n = 0) (hk : k < n)
    (before : ∀ j < k, s.launch.populated (a + BitVec.ofNat 128 j) = true)
    (here : s.launch.populated (a + BitVec.ofNat 128 k) = false) :
    s.admitRead a n = some (.outsideMemory s.pc (a + BitVec.ofNat 128 k)) := by
  have haligned : ¬ (s.launch.misaligned = .refuse ∧ a.toNat % n ≠ 0) := fun ⟨hr, hne⟩ =>
    ha.elim (fun hs => nomatch hr.symm.trans hs) hne
  rw [State.admitRead, if_neg haligned,
    find?_byteAddrs hk (fun j hj => by simp [before j hj]) (by simp [here])]

/-- The first byte of the program text is the one reported (log 29). -/
theorem admitWrite_of_inText {s : State} {a : Addr} {n k : Nat} (hr : s.MayRead a n) (hk : k < n)
    (before : ∀ j < k, s.launch.inText (a + BitVec.ofNat 128 j) = false)
    (here : s.launch.inText (a + BitVec.ofNat 128 k) = true) :
    s.admitWrite a n = some (.storeToText s.pc (a + BitVec.ofNat 128 k)) := by
  simp only [State.admitWrite, admitRead_eq_none.2 hr, find?_byteAddrs hk before here]

/-- Settles O33: alignment is checked first. -/
theorem misalignedRefused : Obligations.MisalignedRefused := fun _ _ _ _ _ _ hm hready hr ha =>
  exec_of_admitRead hm hready (admitRead_of_misaligned hr ha)

/-- Settles O34: population is checked next, for loads and stores. -/
theorem outsideMemoryRefused : Obligations.OutsideMemoryRefused := fun _ _ _ _ _ _ _ hm hready ha hk before here =>
  exec_of_admitRead hm hready (admitRead_of_unpopulated ha hk before here)

/-- Settles O35: the program text is checked last, for what may be read. -/
theorem storeToTextRefused : Obligations.StoreToTextRefused := fun _ _ _ _ _ _ hm hready hr hk before here =>
  exec_of_admitWrite hm hready (admitWrite_of_inText hr hk before here)

/-! ## What changes memory, and what never does (R64, R322) -/

/-- A byte that an instruction changes is one that a store, executed and admitted, stores to: the other forms of a next
state leave memory as it was. -/
theorem exec_byte_ne {i : Instr} {s t : State} {x : Addr} (hwf : s.mem.wf) (h : exec i s = .next t)
    (hx : t.byte x ≠ s.byte x) :
    ∃ m n, memoryOperand i = some (m, n, true, i.guardField) ∧ s.pred i.guardField = true ∧
      s.MayWrite (m.address s) n ∧ (x - m.address s).toNat < n := by
  cases exec_next h with
  | skipped | nop | branched | regPending | conPending => exact absurd rfl hx
  | wrote rt v | called rt a => exact absurd (s.setReg_byte rt _ x) hx
  | wroteBoth rt lo hi => exact absurd (((s.setReg rt lo).setRegT_byte hi x).trans (s.setReg_byte rt lo x)) hx
  | compared pt1 pt2 b => exact absurd (s.writeTargets_byte pt1 pt2 b x) hx
  | stored m n v he hm hw hn =>
    refine ⟨m, n, hm, he.guard, hw, ?_⟩
    by_contra hout
    rw [State.retire_byte, State.byte_withMem, memByte_storeBytes hwf _ _ (by omega), if_neg hout] at hx
    exact hx rfl

/-- Settles O44: the store that `exec_byte_ne` finds. -/
theorem onlyStoresWriteMemory : Obligations.OnlyStoresWriteMemory := by
  intro s t i x hwf h hx
  obtain ⟨m, n, hm, hg, -, hlt⟩ := exec_byte_ne hwf h hx
  exact ⟨m, n, i.guardField, hm, hg, hlt⟩

/-- An admitted store reaches no byte of the program text. -/
theorem State.MayWrite.not_inText {s : State} {a x : Addr} {n : Nat} (h : s.MayWrite a n) (hx : (x - a).toNat < n) :
    s.launch.inText x = false := by
  obtain ⟨-, htext⟩ := h
  simpa only [add_ofNat_sub] using htext _ hx

/-- No instruction changes the program text: a store that would is not admitted (R64). -/
theorem exec_byte_of_inText {i : Instr} {s t : State} {x : Addr} (hwf : s.mem.wf) (h : exec i s = .next t)
    (hx : s.launch.inText x = true) : t.byte x = s.byte x := by
  by_contra hne
  obtain ⟨m, n, -, -, hw, hlt⟩ := exec_byte_ne hwf h hne
  exact Bool.false_ne_true ((hw.not_inText hlt).symm.trans hx)

/-- Settles O51: a step is `exec`, with the accesses of the group brought up to date, or nothing at the end of a run. -/
theorem stepKeepsProgramText : Obligations.StepKeepsProgramText := by
  intro s u hs h
  obtain ⟨-, rfl⟩ | ⟨-, i, t, -, -, -, ht, rfl, -⟩ := step_next h
  · exact ⟨rfl, fun _ _ => rfl⟩
  · rw [State.closeStep_launch]
    refine ⟨exec_launch ht, fun x hx => ?_⟩
    rw [State.closeStep_byte]
    exact exec_byte_of_inText hs.memory ht hx

/-! ## The fetch, and the step that runs what it fetched (R66, R294) -/

theorem step_of_fetch_error {s : State} {r : Refusal} (he : s.ended = false) (h : s.fetch = .error r) :
    step s = .refused r := by
  simp [step, he, advance, h]

/-- The first unpopulated byte is the one reported (log 29). -/
theorem fetch_of_unpopulated {s : State} {k : Nat} (hk : k < 5)
    (before : ∀ j < k, s.launch.populated (s.pc + BitVec.ofNat 128 j) = true)
    (here : s.launch.populated (s.pc + BitVec.ofNat 128 k) = false) :
    s.fetch = .error (.outsideMemory s.pc (s.pc + BitVec.ofNat 128 k)) := by
  rw [State.fetch, find?_byteAddrs hk (fun j hj => by simp [before j hj]) (by simp [here])]

/-- Where all five bytes are populated, a pc outside the program text is the address reported (log 29). -/
theorem fetch_of_notText {s : State} (hp : ∀ k < 5, s.launch.populated (s.pc + BitVec.ofNat 128 k) = true)
    (ht : s.pc ∉ s.launch.text) : s.fetch = .error (.outsideMemory s.pc s.pc) := by
  have hnone : (byteAddrs s.pc 5).find? (fun b => !s.launch.populated b) = none := by
    rw [List.find?_eq_none]
    intro x hx
    obtain ⟨k, hk, rfl⟩ : ∃ k < 5, s.pc + BitVec.ofNat 128 k = x := by simpa [byteAddrs] using hx
    simp [hp k hk]
  rw [State.fetch, hnone]
  simp [ht]

/-- Settles O47: whatever the fetch refuses, the step refuses. -/
theorem fetchRefused : Obligations.FetchRefused := fun _ he =>
  ⟨fun _ hk before here => step_of_fetch_error he (fetch_of_unpopulated hk before here),
    fun hp ht => step_of_fetch_error he (fetch_of_notText hp ht)⟩

section
variable {s : State} {i : Instr}

/-- Where no check of neighbouring words or of the group's accesses fails, `exec` alone can stop an instruction. -/
theorem runInstr_of_issues (h : s.Issues i) :
    (∀ t, exec i s = .next t → runInstr i s = .next (s.closeStep i t)) ∧
      (∀ r, exec i s = .refused r → runInstr i s = .refused r) ∧ ∀ f, exec i s = .fault f → runInstr i s = .fault f := by
  obtain ⟨-, hj, hu, hg, ha⟩ := h
  refine ⟨fun t ht => ?_, fun r hr => ?_, fun f hf => ?_⟩
  · simp [runInstr, hj, hu, hg, ha, ht]
  · simp [runInstr, hj, hu, hg, hr]
  · simp [runInstr, hj, hu, hg, hf]

/-- Fetching the word of an instruction of the launch runs that instruction. -/
theorem advance_of_decodedAt (hf : s.fetch = .ok (s.wordAt s.pc)) (hd : s.decodedAt s.pc = .ok i) :
    advance s = runInstr i s := by
  rw [State.decodedAt] at hd
  simp [advance, hf, runWord, hd]

end

theorem settlePair_of_stop {t : State} {r : Result} (h : t.stopBeforeUser = some r) : settlePair t = r := by
  unfold State.stopBeforeUser at h
  simp [settlePair, h]

/-- Settles O46: the step fetches and runs `i`; what follows a next state is the look ahead behind a prefix (log 28). -/
theorem stepRunsDecoded : Obligations.StepRunsDecoded := by
  intro s i hp ht hd hi
  have hadv : advance s = runInstr i s := advance_of_decodedAt (fetch_of_populated hp ht) hd
  obtain ⟨hnext, hrefused, hfault⟩ := runInstr_of_issues hi
  obtain ⟨he, -⟩ := hi
  refine ⟨fun t hexec => ?_, fun r hr => ?_, fun f hf => ?_⟩
  · intro u
    have hstep : step s = settlePair u := by
      rw [step, he, hadv, hnext t hexec]
      rfl
    exact ⟨fun h => hstep.trans (settlePair_of_noStop h), fun r h => hstep.trans (settlePair_of_stop h),
      fun h => pairStop_of_noPrefix (t := u) (exec_noPrefix (t := t) hexec h) _⟩
  · simp [step, he, hadv, hrefused r hr]
  · simp [step, he, hadv, hfault f hf]

end Sys2Proof.Machine
end

section
/-! PROOFS. The encoding (30_encoding.md): decoding and encoding undo each other (R82 to R91, R101), the two Layout C words
(R103), the words without a meaning (R96, R98), and the constant of an immediate (R92). -/

namespace Sys2Proof

/-! ## The fields of a word -/

theorem bits_append_bits (w : IWord) {hi lo m n : Nat} (h : hi = lo + n) :
    bits w hi m ++ bits w lo n = bits w lo (m + n) :=
  BitVec.extractLsb'_append_extractLsb'_eq_extractLsb' h

theorem bits_all (w : IWord) : bits w 0 40 = w := BitVec.extractLsb'_eq_self

/-- A field of a field. -/
theorem extractLsb'_bits (w : IWord) (lo a : Nat) {m n : Nat} (h : a + m ≤ n) :
    (bits w lo n).extractLsb' a m = bits w (lo + a) m := by
  refine BitVec.eq_of_getLsbD_eq fun i hi => ?_
  simp [bits, hi, show a + i < n by omega, Nat.add_assoc]

theorem ofBool_getLsbD (w : IWord) (k : Nat) : BitVec.ofBool (w.getLsbD k) = bits w k 1 := by
  refine BitVec.eq_of_getLsbD_eq fun i hi => ?_
  obtain rfl : i = 0 := by omega
  simp [bits]

@[simp] theorem Rel.ofBits_toBits (rel : Rel) : Rel.ofBits rel.toBits = rel := by
  cases rel <;> rfl

@[simp] theorem Rel.toBits_ofBits (op3 : BitVec 3) : (Rel.ofBits op3).toBits = op3 := by
  revert op3
  decide

/-! ## A format of the fields of a word is the word (R82 to R90) -/

section
variable {w : IWord} {op fn : BitVec 6}

theorem packRest_bits (hop : (bits w 33 6).toNat = op.toNat) : packRest (brkOf w) op (bits w 0 33) = w := by
  simp only [packRest, brkOf, ofBool_getLsbD, ← BitVec.eq_of_toNat_eq hop, bits_append_bits]
  exact bits_all w

theorem packRI_bits (hop : (bits w 33 6).toNat = op.toNat) :
    packRI (brkOf w) op (bits w 18 15) (bits w 12 6) (bits w 6 6) (bits w 0 6) = w := by
  simp only [packRI, brkOf, ofBool_getLsbD, ← BitVec.eq_of_toNat_eq hop, bits_append_bits]
  exact bits_all w

theorem packSetI_bits (hop : (bits w 33 6).toNat = op.toNat) :
    packSetI (brkOf w) op (bits w 30 3) (bits w 18 12) (bits w 12 6) (bits w 6 6) (bits w 0 6) = w := by
  simp only [packSetI, brkOf, ofBool_getLsbD, ← BitVec.eq_of_toNat_eq hop, bits_append_bits]
  exact bits_all w

theorem packCmp_bits (hop : (bits w 33 6).toNat = op.toNat) :
    packCmp (brkOf w) op (bits w 30 3) (bits w 24 6) (bits w 18 6) (bits w 12 6) (bits w 6 6) (bits w 0 6) = w := by
  simp only [packCmp, brkOf, ofBool_getLsbD, ← BitVec.eq_of_toNat_eq hop, bits_append_bits]
  exact bits_all w

theorem packBr_bits (hop : (bits w 33 6).toNat = op.toNat) :
    packBr (brkOf w) op (bits w 6 27) (bits w 0 6) = w := by
  simp only [packBr, brkOf, ofBool_getLsbD, ← BitVec.eq_of_toNat_eq hop, bits_append_bits]
  exact bits_all w

/-- Op3 and Rb need not be written as fields of the word: they may be fixed by the instruction. -/
theorem packR2_bits {op3 : BitVec 3} {rb : RegNum} (hop : (bits w 33 6).toNat = 2) (hfn : (bits w 27 6).toNat = fn.toNat)
    (hop3 : (bits w 24 3).toNat = op3.toNat) (hrb : (bits w 18 6).toNat = rb.toNat) :
    packR2 (brkOf w) fn op3 rb (bits w 12 6) (bits w 6 6) (bits w 0 6) = w := by
  have hop : bits w 33 6 = 2#6 := BitVec.eq_of_toNat_eq hop
  simp only [packR2, brkOf, ofBool_getLsbD, ← hop, ← BitVec.eq_of_toNat_eq hfn, ← BitVec.eq_of_toNat_eq hop3,
    ← BitVec.eq_of_toNat_eq hrb, bits_append_bits]
  exact bits_all w

theorem packShiftI_bits {e : Bool} (hop : (bits w 33 6).toNat = 2) (hfn : (bits w 27 6).toNat = fn.toNat)
    (h26 : w.getLsbD 26 = true) (h25 : w.getLsbD 25 = e) :
    packShiftI (brkOf w) fn e (bits w 18 7) (bits w 12 6) (bits w 6 6) (bits w 0 6) = w := by
  have hop : bits w 33 6 = 2#6 := BitVec.eq_of_toNat_eq hop
  have h26 : bits w 26 1 = 1#1 := by rw [← ofBool_getLsbD, h26]; rfl
  simp only [packShiftI, brkOf, ofBool_getLsbD, ← hop, ← BitVec.eq_of_toNat_eq hfn, ← h26, ← h25, bits_append_bits]
  exact bits_all w

end

/-- The nine unused bits of JMR and of the indexed stores are Op3 and Rb. -/
theorem bits_op3_rb_eq_zero {w : IWord} : bits w 18 9 = 0 ↔ bits w 24 3 = 0 ∧ bits w 18 6 = 0 := by
  refine ⟨fun h => ⟨?_, ?_⟩, fun ⟨h3, h6⟩ => ?_⟩
  · rw [← extractLsb'_bits w 18 6 (show 6 + 3 ≤ 9 by omega), h]; rfl
  · rw [← extractLsb'_bits w 18 0 (show 0 + 6 ≤ 9 by omega), h]; rfl
  · rw [← bits_append_bits w (hi := 24) (lo := 18) (m := 3) (n := 6) rfl, h3, h6]; rfl

/-- Op3 of a shift in register form: the immediate bit, e and an unused bit. -/
theorem bits_op3_of_register {w : IWord} (h26 : w.getLsbD 26 = false) (h24 : bits w 24 1 = 0) :
    bits w 24 3 = if w.getLsbD 25 then 2#3 else 0#3 := by
  have h26 : bits w 26 1 = 0#1 := by rw [← ofBool_getLsbD, h26]; rfl
  have hop3 : bits w 26 1 ++ bits w 25 1 ++ bits w 24 1 = bits w 24 3 := by
    simp only [bits_append_bits]
  rw [← hop3, h26, h24, ← ofBool_getLsbD]
  cases w.getLsbD 25 <;> rfl

/-! ## What the parts of the decoder answer -/

theorem ifUnusedZero_eq_ok {n : Nat} {unused : BitVec n} {i j : Instr} :
    ifUnusedZero unused i = .ok j ↔ unused = 0 ∧ i = j := by
  by_cases h : unused = 0 <;> simp only [ifUnusedZero, h, reduceIte, Decoded.ok.injEq, reduceCtorEq, true_and, false_and]

theorem ifUnusedZero_of_ne {n : Nat} {unused : BitVec n} (h : unused ≠ 0) (i : Instr) :
    ifUnusedZero unused i = .unusedBits :=
  if_neg h

theorem shiftForm_of_register {w : IWord} (h26 : w.getLsbD 26 = false) (r rE im imE : Instr) :
    shiftForm w r rE im imE = ifUnusedZero (bits w 24 1) (if w.getLsbD 25 then rE else r) :=
  if_neg (by simp only [h26, Bool.false_eq_true, not_false_eq_true])

/-- The form that a shift decodes to, by bits 26 and 25, or by all of Op3 where bit 24 must be 0 (R90). -/
theorem shiftForm_eq_ok {w : IWord} {r rE im imE i : Instr} (h : shiftForm w r rE im imE = .ok i) :
    (w.getLsbD 26 = true ∧ ((w.getLsbD 25 = false ∧ i = im) ∨ (w.getLsbD 25 = true ∧ i = imE))) ∨
      ((bits w 24 3 = 0 ∧ i = r) ∨ (bits w 24 3 = 2 ∧ i = rE)) := by
  unfold shiftForm at h
  split at h
  next h26 =>
    cases h
    cases h25 : w.getLsbD 25 <;> simp [h26]
  next h26 =>
    obtain ⟨h24, rfl⟩ := ifUnusedZero_eq_ok.1 h
    have hop3 := bits_op3_of_register (by simpa using h26) h24
    cases h25 : w.getLsbD 25 <;> simp_all

/-! ## Encoding undoes decoding (R101) -/

section
variable {w : IWord} {i : Instr}

theorem encode_of_decodeMul (hop : (bits w 33 6).toNat = 2) (hfn : (bits w 27 6).toNat = 12)
    (h : decodeMul w = .ok i) : encode i = w ∧ i.inLayoutA = true := by
  unfold decodeMul at h
  split at h
  all_goals cases h
  all_goals simp [encode, Instr.inLayoutA, packR2_bits, *]

theorem encode_of_decodeFunc (hop : (bits w 33 6).toNat = 2) (h : decodeFunc w = .ok i) :
    encode i = w ∧ i.inLayoutA = true := by
  unfold decodeFunc at h
  split at h
  -- The three shifts, MUL, and the functions whose unused bits are 0 or that have none.
  case h_1 hfn | h_2 hfn | h_3 hfn =>
    obtain ⟨h26, ⟨h25, rfl⟩ | ⟨h25, rfl⟩⟩ | ⟨hop3, rfl⟩ | ⟨hop3, rfl⟩ := shiftForm_eq_ok h
    · exact ⟨packShiftI_bits hop hfn h26 h25, rfl⟩
    · exact ⟨packShiftI_bits hop hfn h26 h25, rfl⟩
    · exact ⟨packR2_bits hop hfn (congrArg _ hop3) rfl, rfl⟩
    · exact ⟨packR2_bits hop hfn (congrArg _ hop3) rfl, rfl⟩
  case h_9 hfn => exact encode_of_decodeMul hop hfn h
  all_goals simp only [ifUnusedZero_eq_ok, bits_op3_rb_eq_zero, Decoded.ok.injEq, reduceCtorEq] at h
  any_goals subst h
  any_goals obtain ⟨hunused, rfl⟩ := h
  all_goals simp [encode, Instr.inLayoutA, packR2_bits, *]

theorem encode_of_decode (h : decode w = .ok i) : encode i = w ∧ i.inLayoutA = true := by
  unfold decode at h
  split at h
  -- Major opcode 2, and the other major opcodes, each in its format.
  case h_3 hop => exact encode_of_decodeFunc hop h
  all_goals cases h
  all_goals simp [encode, Instr.inLayoutA, packRest_bits, packRI_bits, packBr_bits, packCmp_bits, packSetI_bits, *]

end

/-- Settles O2: each arm of the decoder reads all fields of its format, and those put together are the word. -/
theorem encodeUndoesDecode : Obligations.EncodeUndoesDecode := fun _ _ => encode_of_decode

/-! ## Decoding undoes encoding (R82 to R91, R105) -/

/-- The formats in turn; what the fields of an encoded word read as is said in the laws of the encoding. -/
theorem decode_encode {i : Instr} (h : i.inLayoutA = true) : decode (encode i) = .ok i := by
  cases i with
  | bra | csr | carry => cases h
  | sys | mod | flt | fdp | ffdp | nop => simp [encode, decode]
  | addi | subfi | andi | ori | xori | muli | ldb | ldbu | ldw | ldwu | ldt | ldtu | ldo | ldou | ldh | ldhr
    | stb | stw | stt | sto | sth | sthc => simp [encode, decode]
  | bnz | bz | bsr | con1 | con2 | con3 | con4 => simp [encode, decode]
  | cmp | cmpu | fcmp | cmp19 | cmpi | cmpui | fcmpi | cmpi23 => simp [encode, decode]
  | seti | setui | fseti => simp [encode, decode]
  | slli | sllEi | srli | srlEi | srai | sraEi => simp [encode, decode, decodeFunc, shiftForm]
  | sll | sllE | srl | srlE | sra | sraE => simp [encode, decode, decodeFunc, shiftForm, ifUnusedZero]
  | mulS | mulU | mulSu | mulOp4 | mulOp5 | mulOp6 | mulOp7 => simp [encode, decode, decodeFunc, decodeMul]
  | set | setu | fset | ldhrx | ldchk | sthcx => simp [encode, decode, decodeFunc]
  | add | sub | and | or | xor | nand | nor | xnor | ldbx | ldbux | ldwx | ldwux | ldtx | ldtux | ldox | ldoux | ldhx | reg
    | jmr | stbx | stwx | sttx | stox | sthx => simp [encode, decode, decodeFunc, ifUnusedZero]

theorem decode_encode_bra (brk : Bool) (disp : BitVec 27) : decode (encode (.bra brk disp)) = .ok (.bz brk disp 0) :=
  decode_encode (i := .bz brk disp 0) rfl

/-- Settles O1: every format reads its fields back; BRA's word is that of BZ P0. -/
theorem decodeUndoesEncode : Obligations.DecodeUndoesEncode :=
  ⟨fun _ => decode_encode, decode_encode_bra⟩

/-- Settles O5: the decoder is run on the printed words. -/
theorem printedWordsDecode : Obligations.PrintedWordsDecode := by
  unfold Obligations.PrintedWordsDecode
  decide

/-! ## The Layout C words (R103, R190, R251) -/

section
variable (op2 m2 : BitVec 2) (csr : BitVec 10) (ra : BitVec 5) (io7 io6 io5 io4 io3 io2 io1 io0 : BitVec 2)
  (rt : BitVec 5) (pr : PredNum)

theorem decodeLayoutC_csr :
    decodeLayoutC (encode (.csr op2 m2 csr ra rt pr)) = some (.csr op2 m2 csr ra rt pr) := by
  simp (disch := omega) only [decodeLayoutC, encode, bits, BitVec.extractLsb'_append_eq_of_le,
    BitVec.extractLsb'_append_eq_of_add_le, Nat.reduceSub, BitVec.extractLsb'_eq_self]
  rfl

theorem decodeLayoutC_carry :
    decodeLayoutC (encode (.carry io7 io6 io5 io4 io3 io2 io1 io0 rt pr)) =
      some (.carry io7 io6 io5 io4 io3 io2 io1 io0 rt pr) := by
  simp (disch := omega) only [decodeLayoutC, encode, bits, BitVec.extractLsb'_append_eq_of_le,
    BitVec.extractLsb'_append_eq_of_add_le, Nat.reduceSub, BitVec.extractLsb'_eq_self]
  rfl

/-- Under Layout A bits 38..33 of a CSR word are the opcode of ORI. -/
theorem decode_csr :
    ∃ imm ra' rt', decode (encode (.csr op2 m2 csr ra rt pr)) = .ok (.ori false imm ra' rt' pr) := by
  have hop : (bits (encode (.csr op2 m2 csr ra rt pr)) 33 6).toNat = 9 := by
    simp (disch := omega) only [encode, bits, BitVec.extractLsb'_append_eq_of_le]
    rfl
  have hpr : bits (encode (.csr op2 m2 csr ra rt pr)) 0 6 = pr := by
    simp (disch := omega) only [encode, bits, BitVec.extractLsb'_append_eq_of_add_le, BitVec.extractLsb'_eq_self]
  have hbrk : brkOf (encode (.csr op2 m2 csr ra rt pr)) = false := Laws.BreakBit.csr op2 m2 csr ra rt pr
  simp [decode, hop, hpr, hbrk]

/-- Under Layout A bits 38..33 of a CARRY word are an unassigned opcode. -/
theorem decode_carry : decode (encode (.carry io7 io6 io5 io4 io3 io2 io1 io0 rt pr)) = .illegal := by
  have hop : (bits (encode (.carry io7 io6 io5 io4 io3 io2 io1 io0 rt pr)) 33 6).toNat = 11 := by
    simp (disch := omega) only [encode, bits, BitVec.extractLsb'_append_eq_of_le]
    rfl
  simp [decode, hop]

end

theorem decodeWith_of_layoutC {w : IWord} {i : Instr} (h : decodeLayoutC w = some i) : decodeWith true w = .ok i := by
  simp [decodeWith, h]

/-- No word of major opcode 2 is a Layout C word. -/
theorem decodeWith_of_op_two {w : IWord} (h : (bits w 33 6).toNat = 2) (layoutC : Bool) :
    decodeWith layoutC w = decodeFunc w := by
  have hcsr : bits w 30 10 ≠ 0b0001001111#10 := fun hc => by
    rw [← extractLsb'_bits w 30 3 (show 3 + 6 ≤ 10 by omega), hc] at h
    cases h
  have hcarry : bits w 27 13 ≠ 0b0001011110111#13 := fun hc => by
    rw [← extractLsb'_bits w 27 6 (show 6 + 6 ≤ 13 by omega), hc] at h
    cases h
  cases layoutC <;> simp [decodeWith, decodeLayoutC, decode, h, hcsr, hcarry]

/-! ## Words that are no instruction (R96)

In every arm of the decoder but the last, the opcode or function contradicts the list. -/

section
variable {w : IWord}

theorem decode_of_unassigned_op
    (h : (bits w 33 6).toNat ∈ [6, 7, 11, 26, 27, 31, 40, 41, 44, 45, 46, 47, 52, 55, 56, 57, 58]) :
    decode w = .illegal := by
  unfold decode
  split
  case h_48 => rfl
  all_goals simp [*] at h

theorem decodeFunc_of_unassigned_function
    (h : (bits w 27 6).toNat ∈ [3, 6, 7, 11, 14, 15, 19, 20, 21, 22, 23, 24, 25, 26, 27, 31, 40, 41, 44, 45, 46, 52, 55,
      56, 57, 58, 59, 60, 61, 62]) :
    decodeFunc w = .illegal := by
  unfold decodeFunc
  split
  case h_35 => rfl
  all_goals simp [*] at h

theorem decodeFunc_of_unassigned_mul (hfn : (bits w 27 6).toNat = 12) (h : (bits w 24 3).toNat = 3) :
    decodeFunc w = .illegal := by
  simp [decodeFunc, hfn, decodeMul, h]

/-! ## Words with an unused bit set (R98)

In every arm for a function of the lists, the unused field that the arm checks is not 0. -/

theorem decodeFunc_of_op3_ne
    (hfn : (bits w 27 6).toNat ∈
      [4, 5, 8, 9, 10, 13, 16, 17, 18, 32, 33, 34, 35, 36, 37, 38, 39, 42, 48, 49, 50, 51, 53, 63])
    (h : bits w 24 3 ≠ 0) : decodeFunc w = .unusedBits := by
  have h9 : bits w 18 9 ≠ 0 := fun h0 => h (bits_op3_rb_eq_zero.1 h0).1
  unfold decodeFunc
  split
  all_goals simp_all [ifUnusedZero_of_ne]

theorem decodeFunc_of_rb_ne (hfn : (bits w 27 6).toNat ∈ [13, 48, 49, 50, 51, 53]) (h : bits w 18 6 ≠ 0) :
    decodeFunc w = .unusedBits := by
  have h9 : bits w 18 9 ≠ 0 := fun h0 => h (bits_op3_rb_eq_zero.1 h0).2
  simp only [List.mem_cons, List.not_mem_nil, or_false] at hfn
  obtain hfn | hfn | hfn | hfn | hfn | hfn := hfn
  all_goals simp [decodeFunc, hfn, ifUnusedZero_of_ne h9]

theorem decodeFunc_of_shift_bit24 (hfn : (bits w 27 6).toNat ∈ [0, 1, 2]) (h26 : w.getLsbD 26 = false)
    (h24 : w.getLsbD 24 = true) : decodeFunc w = .unusedBits := by
  have h1 : bits w 24 1 ≠ 0 := by
    rw [← ofBool_getLsbD, h24]
    decide
  simp only [List.mem_cons, List.not_mem_nil, or_false] at hfn
  obtain hfn | hfn | hfn := hfn
  all_goals simp [decodeFunc, hfn, shiftForm_of_register h26, ifUnusedZero_of_ne h1]

end

/-- The encoder writes no unused bit: what it writes decodes, but for CARRY, whose word is no instruction. -/
theorem decode_encode_ne_unusedBits (i : Instr) : decode (encode i) ≠ .unusedBits := by
  cases h : i.inLayoutA with
  | true => simp [decode_encode h]
  | false =>
    cases i with
    | bra brk disp => simp [decode_encode_bra]
    | csr op2 m2 csr ra rt pr =>
      obtain ⟨imm, ra', rt', hd⟩ := decode_csr op2 m2 csr ra rt pr
      simp [hd]
    | carry io7 io6 io5 io4 io3 io2 io1 io0 rt pr => simp [decode_carry]
    | _ => cases h

end Sys2Proof

namespace Sys2Proof.Machine

/-! ## What running a word answers (R294) -/

section
variable {s : State} {w : IWord}

theorem runWord_of_ok {i : Instr} (h : decodeWith s.launch.layoutC w = .ok i) : runWord w s = runInstr i s := by
  simp [runWord, h]

theorem runWord_of_illegal (h : decodeWith s.launch.layoutC w = .illegal) :
    runWord w s = .fault (.illegalInstruction s.pc w) := by
  simp [runWord, h]

theorem runWord_of_unusedBits (h : decodeWith s.launch.layoutC w = .unusedBits) :
    runWord w s = .refused (.unusedBitsSet s.pc w) := by
  simp [runWord, h]

end

theorem refuseUnlessEarlier_of_place {r r' : Refusal} (h : r'.place ≤ r.place) :
    refuseUnlessEarlier r (.refused r') = .refused r' :=
  if_pos h

/-- What an instruction refuses before the checks of neighbouring words is refused whatever they say. -/
theorem runInstr_of_refused_early {i : Instr} {s : State} {r : Refusal} (h : exec i s = .refused r) (hr : r.place ≤ 50) :
    runInstr i s = .refused r := by
  unfold runInstr
  rw [h]
  split
  · exact refuseUnlessEarlier_of_place hr
  · split
    · exact refuseUnlessEarlier_of_place (show r.place ≤ 52 by omega)
    · rfl

/-- Settles O3: the words are read back field by field, and `exec` refuses both instructions without looking at the state,
earlier than any check of neighbouring words. -/
theorem layoutCWords : Obligations.LayoutCWords := by
  refine ⟨fun op2 m2 csr ra rt pr => ?_, fun io7 io6 io5 io4 io3 io2 io1 io0 rt pr => ?_⟩
  · have hd := decodeWith_of_layoutC (decodeLayoutC_csr op2 m2 csr ra rt pr)
    refine ⟨hd, decode_csr op2 m2 csr ra rt pr, fun s => ⟨rfl, fun hl => ?_⟩⟩
    rw [runWord_of_ok (hl ▸ hd)]
    exact runInstr_of_refused_early rfl (show 30 ≤ 50 by decide)
  · have hd := decodeWith_of_layoutC (decodeLayoutC_carry io7 io6 io5 io4 io3 io2 io1 io0 rt pr)
    refine ⟨hd, decode_carry io7 io6 io5 io4 io3 io2 io1 io0 rt pr, fun s => ⟨rfl, fun hl => ?_⟩⟩
    rw [runWord_of_ok (hl ▸ hd)]
    exact runInstr_of_refused_early rfl (show 30 ≤ 50 by decide)

/-- Settles O6: the three kinds of unassigned words, of which the last two are words of major opcode 2. -/
theorem unassignedWordsFault : Obligations.UnassignedWordsFault := by
  intro s w hl h
  apply runWord_of_illegal
  obtain hop | ⟨hop, hfn⟩ | ⟨hop, hfn, hop3⟩ := h
  · rw [hl]
    exact decode_of_unassigned_op hop
  · rw [decodeWith_of_op_two hop]
    exact decodeFunc_of_unassigned_function hfn
  · rw [decodeWith_of_op_two hop]
    exact decodeFunc_of_unassigned_mul hfn hop3

/-- Settles O7: the three kinds of unused bits, the word of NOP, and the encoder. -/
theorem unusedBitsRefused : Obligations.UnusedBitsRefused := by
  refine ⟨fun s w hop h => ?_, fun w hop => by simp [decode, hop, brkOf], decode_encode_ne_unusedBits⟩
  apply runWord_of_unusedBits
  rw [decodeWith_of_op_two hop]
  obtain ⟨hfn, hop3⟩ | ⟨hfn, h26, h24⟩ | ⟨hfn, hrb⟩ := h
  · exact decodeFunc_of_op3_ne hfn hop3
  · exact decodeFunc_of_shift_bit24 hfn h26 h24
  · exact decodeFunc_of_rb_ne hfn hrb

/-! ## The constant of an immediate (R92, R253 to R255) -/

theorem constant_of_some {s : State} {p : PendCon} (h : s.pendCon = some p) {n : Nat} (v : BitVec n) :
    s.constant v = Config.conUpper p.chunks n v.toNat <<< n ||| v.setWidth 128 := by
  simp [State.constant, h]

/-- Whatever the upper bits are, the low `n` bits of a constant are the immediate (log 9). -/
theorem setWidth_constant (s : State) {n : Nat} (hn : n ≤ 128) (v : BitVec n) : (s.constant v).setWidth n = v := by
  refine BitVec.eq_of_getLsbD_eq fun i hi => ?_
  have hi' : i < 128 := by omega
  cases h : s.pendCon with
  | none => simp [constant_of_none h, BitVec.getElem_signExtend, hi, hi']
  | some p => simp [constant_of_some h, hi, hi']

/-- Settles O12: sign extension keeps the value, and the low bits are the immediate's in both cases. -/
theorem constantsKeepImmediate : Obligations.ConstantsKeepImmediate := by
  intro s n imm _ hn
  refine ⟨fun h => ?_, setWidth_constant s (by omega) imm⟩
  rw [constant_of_none h]
  exact BitVec.toInt_signExtend_of_le (by omega)

end Sys2Proof.Machine
end

section
/-! PROOFS. Arithmetic and logic (40_alu.md): the instructions that write one register (R131 to R144, R147 to R154), those
that write a second one named by a REG (R145 to R147, R150), and the shifts and prefixes that are refused (R146, R150, R155,
R240, R250). What an instruction writes is said by the model in the operations of 128-bit words and by the statements in
those of numbers; that the two agree is a lemma about words for each operation. -/

namespace Sys2Proof.Machine

/-! ## Words as numbers -/

theorem ofInt_sub {n : Nat} (x y : Int) : BitVec.ofInt n (x - y) = BitVec.ofInt n x - BitVec.ofInt n y := by
  simp [sub_eq_add_neg, BitVec.ofInt_add, BitVec.ofInt_neg]

/-- The `n` bits from bit `lo` on of an integer taken modulo a higher power of two are those of the integer. -/
theorem extractLsb'_ofInt {w lo n : Nat} (h : lo + n ≤ w) (x : Int) :
    (BitVec.ofInt w x).extractLsb' lo n = BitVec.ofInt n (x / 2 ^ lo) := by
  obtain ⟨k, rfl⟩ := Nat.exists_eq_add_of_le h
  have hmod : x % 2 ^ (lo + n + k) / 2 ^ lo % 2 ^ n = x / 2 ^ lo % 2 ^ n := by
    have hx : x % 2 ^ (lo + n + k) = x + 2 ^ lo * (2 ^ n * -(2 ^ k * (x / 2 ^ (lo + n + k)))) := by
      rw [Int.emod_def]
      ring
    rw [hx, Int.add_mul_ediv_left _ _ (by positivity), Int.add_mul_emod_self_left]
  obtain ⟨y, hy⟩ := Int.eq_ofNat_of_zero_le (Int.emod_nonneg x (show (2 : Int) ^ (lo + n + k) ≠ 0 by positivity))
  apply BitVec.eq_of_toNat_eq
  rw [BitVec.extractLsb'_toNat, BitVec.toNat_ofInt, BitVec.toNat_ofInt, Nat.shiftRight_eq_div_pow]
  push_cast
  rw [← hmod, hy]
  norm_cast

/-- The halves of a result taken modulo 2^256 (R145, R146). -/
theorem extractLsb'_ofInt_low (x : Int) : (BitVec.ofInt 256 x).extractLsb' 0 128 = BitVec.ofInt 128 x := by
  simpa using extractLsb'_ofInt (show 0 + 128 ≤ 256 by decide) x

theorem extractLsb'_ofInt_high (x : Int) : (BitVec.ofInt 256 x).extractLsb' 128 128 = BitVec.ofInt 128 (x / 2 ^ 128) :=
  extractLsb'_ofInt (by decide) x

/-- The low half of a product does not depend on the signs of its factors (R144). -/
theorem ofInt_mul_toInt (a b : Word) : BitVec.ofInt 128 (a.toInt * b.toInt) = BitVec.ofNat 128 (a.toNat * b.toNat) := by
  simp [BitVec.ofInt_mul, BitVec.ofNat_mul]

theorem ofInt_mul_toNat (a b : Word) : BitVec.ofInt 128 (a.toInt * b.toNat) = BitVec.ofNat 128 (a.toNat * b.toNat) := by
  simp [BitVec.ofInt_mul, BitVec.ofNat_mul]

theorem shiftLeft_eq_ofNat (a : Word) (n : Nat) : a <<< n = BitVec.ofNat 128 (a.toNat * 2 ^ n) :=
  BitVec.eq_of_toNat_eq (by simp [Nat.shiftLeft_eq])

theorem ushiftRight_eq_ofNat (a : Word) (n : Nat) : a >>> n = BitVec.ofNat 128 (a.toNat / 2 ^ n) := by
  rw [← Nat.shiftRight_eq_div_pow, ← BitVec.toNat_ushiftRight, BitVec.ofNat_toNat, BitVec.setWidth_eq]

theorem sshiftRight_eq_ofInt (a : Word) (n : Nat) : a.sshiftRight n = BitVec.ofInt 128 (a.toInt / 2 ^ n) := by
  rw [BitVec.sshiftRight_eq, Int.shiftRight_eq_div_pow, Nat.cast_pow, Nat.cast_ofNat]

/-- Where the width leaves room, moving up by `n` multiplies by 2^n. -/
theorem toNat_setWidth_shiftLeft {w m n : Nat} (x : BitVec w) (h : w + n ≤ m) :
    (x.setWidth m <<< n).toNat = x.toNat * 2 ^ n := by
  have hlt : x.toNat * 2 ^ n < 2 ^ m := calc
    x.toNat * 2 ^ n < 2 ^ w * 2 ^ n := Nat.mul_lt_mul_of_pos_right x.isLt (Nat.two_pow_pos n)
    _ = 2 ^ (w + n) := (pow_add 2 w n).symm
    _ ≤ 2 ^ m := Nat.pow_le_pow_right (by decide) h
  rw [BitVec.toNat_shiftLeft, BitVec.toNat_setWidth_of_le (by omega), Nat.shiftLeft_eq, Nat.mod_eq_of_lt hlt]

theorem shiftCount_eq (v : Word) : shiftCount v = v.toNat % 128 := BitVec.toNat_setWidth 7 v

/-! ## The two words of an extended left shift (R150) -/

section
variable (a c : Word) {n : Nat}

/-- No bit is lost: the two words as one number, moved up by `n`. -/
theorem shiftFull_toNat (hn : n < 128) : (shiftFull a c n).toNat = (a.toNat * 2 ^ 128 + c.toNat) * 2 ^ n := by
  rw [shiftFull, toNat_setWidth_shiftLeft (a ++ c) (show 128 + 128 + n ≤ 384 by omega), BitVec.toNat_append,
    ← Nat.shiftLeft_add_eq_or_of_lt c.isLt, Nat.shiftLeft_eq]

/-- Moving up by `n` and then down by more is moving down by the difference. -/
theorem shiftFull_shiftRight (hn : n < 128) {k : Nat} (hk : n ≤ k) :
    (shiftFull a c n).toNat >>> k = (a.toNat * 2 ^ 128 + c.toNat) / 2 ^ (k - n) := by
  rw [shiftFull_toNat a c hn, Nat.shiftRight_eq_div_pow, ← Nat.mul_div_mul_right _ (2 ^ (k - n)) (Nat.two_pow_pos n),
    ← pow_add, Nat.sub_add_cancel hk]

/-- Above the low word stands `a` moved up, with the top `n` bits of `c` below it. -/
theorem shiftFull_low (hn : n < 128) : (shiftFull a c n).extractLsb' 128 128 =
    BitVec.ofNat 128 (a.toNat * 2 ^ n + c.toNat / 2 ^ (128 - n)) := by
  have hpow : 2 ^ 128 = 2 ^ n * 2 ^ (128 - n) := by rw [← pow_add, Nat.add_sub_cancel' hn.le]
  rw [BitVec.extractLsb', shiftFull_shiftRight a c hn hn.le, hpow, ← Nat.mul_assoc, Nat.add_comm,
    Nat.add_mul_div_right _ _ (by positivity), Nat.add_comm]

/-- Above that stand the `n` bits that left `a` at the top. -/
theorem shiftFull_high (hn : n < 128) : (shiftFull a c n).extractLsb' 256 128 =
    BitVec.ofNat 128 (a.toNat / 2 ^ (128 - n)) := by
  have hpow : 2 ^ (256 - n) = 2 ^ 128 * 2 ^ (128 - n) := by rw [← pow_add]; congr 1; omega
  have ha : (a.toNat * 2 ^ 128 + c.toNat) / 2 ^ 128 = a.toNat := by omega
  rw [BitVec.extractLsb', shiftFull_shiftRight a c hn (by omega), hpow, ← Nat.div_div_eq_div_mul, ha]

end

/-! ## What an instruction that executes has before it (R250) -/

section
variable {s : State} {brk : Bool} {pr : PredNum} {q : PendReg} {fits : PendReg → Bool}

theorem pairMayReg_of_noPrefix (h : s.NoPrefix) : s.pairMayReg brk pr fits = none := by
  obtain ⟨hreg, hcon⟩ := h
  exact pairMayReg_eq_none.2 ⟨hcon, fun _ hq => nomatch hreg.symm.trans hq⟩

theorem pairMayRegOrConst_of_none (h : s.pendReg = none) :
    s.pairMayRegOrConst brk pr fits = s.pairConst brk pr := by
  simp [State.pairMayRegOrConst, h]

theorem pairMayRegOrConst_of_some (h : s.pendReg = some q) :
    s.pairMayRegOrConst brk pr fits = s.pairMayReg brk pr fits := by
  simp [State.pairMayRegOrConst, h]

/-- An instruction that executes with a REG before it accepts the REG if its fields fit. -/
theorem State.ReadyWith.pairMustReg (h : s.ReadyWith brk pr q) (hf : fits q = true) :
    s.pairMustReg brk pr fits = none := by
  obtain ⟨hreg, hcon, hpr, -, hcut⟩ := h
  exact pairMustReg_eq_none.2 ⟨hcon, q, hreg, hpr, hcut, hf⟩

theorem pairMayReg_of_pairMustReg (h : s.pairMustReg brk pr fits = none) : s.pairMayReg brk pr fits = none := by
  obtain ⟨hcon, q, hreg, hq⟩ := pairMustReg_eq_none.1 h
  exact pairMayReg_eq_none.2 ⟨hcon, fun q' hreg' => Option.some.inj (hreg.symm.trans hreg') ▸ hq⟩

theorem targetFits_iff {rt : RegNum} : targetFits rt q = true ↔ q.rt = 0 ∨ q.rt ≠ rt := by
  simp [targetFits]

theorem fitsMul_iff {rt : RegNum} : fitsMul rt q = true ↔ q.ra = 0 ∧ q.rb = 0 ∧ (q.rt = 0 ∨ q.rt ≠ rt) := by
  simp [fitsMul, targetFits, and_assoc]

theorem fitsDot_iff {rt : RegNum} : fitsDot rt q = true ↔ q.rt = 0 ∨ q.rt ≠ rt := targetFits_iff

theorem fitsShift_iff {rt : RegNum} : fitsShift rt q = true ↔ q.rb = 0 ∧ (q.rt = 0 ∨ q.rt ≠ rt) := by
  simp [fitsShift, targetFits]

theorem fitsStore_iff : fitsStore q = true ↔ q.rb = 0 ∧ q.rt = 0 := by
  simp [fitsStore]

end

/-! ## Instructions that write one register (R130) -/

section
variable {i : Instr} {s : State} {rt : RegNum} {p : Option Refusal} {pr : PredNum}

theorem WritesReg.of_writeReg {v : Word} (he : exec i s = writeReg p rt v pr s) (hp : p = none) (hg : s.pred pr = true) :
    WritesReg i s rt v := by
  rw [WritesReg, Completes, he]
  exact writeReg_completes hp hg

theorem WritesReg.writesBits {v : Word} {f : Nat → Bool} (h : WritesReg i s rt v) (hv : ∀ k < 128, v.getLsbD k = f k) :
    WritesBits i s rt f :=
  ⟨v, h, hv⟩

/-- With no REG before it a multiply writes the low half of its result alone (R144). -/
theorem WritesReg.of_writeProduct {x : Int} (he : exec i s = writeProduct p rt x pr s) (hp : p = none)
    (hg : s.pred pr = true) (hr : s.pendReg = none) : WritesReg i s rt (BitVec.ofInt 128 x) := by
  have hT : (s.setReg rt (BitVec.ofInt 128 x)).pendReg = none := by simpa using hr
  rw [WritesReg, Completes, he, writeProduct, issue_of_true hp hg, extractLsb'_ofInt_low, State.setRegT_of_none hT]
  exact ⟨_, rfl, by constructor <;> simp⟩

end

/-- Settles O13: addition and subtraction of words are those of their signed values, modulo 2^128. -/
theorem addSubtract : Obligations.AddSubtract := by
  intro s brk rb ra rt pr imm
  simp only [BitVec.ofInt_add, ofInt_sub, BitVec.ofInt_toInt]
  refine ⟨fun ⟨hn, hg⟩ => ?_, fun ⟨hreg, hcon, hg⟩ => ?_⟩
  · have hp : s.pairNone = none := pairNone_eq_none.2 hn
    exact ⟨.of_writeReg rfl hp hg, .of_writeReg rfl hp hg⟩
  · have hp : s.pairConst brk pr = none := pairConst_eq_none.2 ⟨hreg, hcon⟩
    exact ⟨.of_writeReg rfl hp hg, .of_writeReg rfl hp hg⟩

/-- Settles O14: the operations of words act bit by bit; the complement does so within the word. -/
theorem bitwiseLogic : Obligations.BitwiseLogic := by
  intro s brk rb ra rt pr imm a b c
  refine ⟨fun ⟨hn, hg⟩ => ?_, fun ⟨hreg, hcon, hg⟩ => ?_⟩
  · have done {i : Instr} {v : Word} {f : Nat → Bool} (he : exec i s = writeReg s.pairNone rt v pr s)
        (hv : ∀ k < 128, v.getLsbD k = f k) : WritesBits i s rt f :=
      (WritesReg.of_writeReg he (pairNone_eq_none.2 hn) hg).writesBits hv
    refine ⟨done rfl fun k _ => BitVec.getLsbD_and, done rfl fun k _ => BitVec.getLsbD_or,
      done rfl fun k _ => BitVec.getLsbD_xor, done rfl fun k hk => ?_, done rfl fun k hk => ?_, done rfl fun k hk => ?_⟩
    · simp [hk, a, b]
    · simp [hk, a, b]
    · rw [BitVec.getLsbD_not, BitVec.getLsbD_xor, decide_eq_true hk, Bool.true_and]
      exact Bool.not_not _
  · have done {i : Instr} {v : Word} {f : Nat → Bool} (he : exec i s = writeReg (s.pairConst brk pr) rt v pr s)
        (hv : ∀ k < 128, v.getLsbD k = f k) : WritesBits i s rt f :=
      (WritesReg.of_writeReg he (pairConst_eq_none.2 ⟨hreg, hcon⟩) hg).writesBits hv
    exact ⟨done rfl fun k _ => BitVec.getLsbD_and, done rfl fun k _ => BitVec.getLsbD_or,
      done rfl fun k _ => BitVec.getLsbD_xor⟩

/-- Settles O15: without a REG the three multiplies and MULI write the low half alone. -/
theorem multiplyLow : Obligations.MultiplyLow := by
  intro s brk rb ra rt pr imm
  refine ⟨fun ⟨hn, hg⟩ => ?_, fun ⟨hreg, hcon, hg⟩ => ?_⟩
  · have hp := pairMayReg_of_noPrefix (brk := brk) (pr := pr) (fits := fitsMul rt) hn
    obtain ⟨hreg, -⟩ := hn
    refine ⟨?_, ?_, ?_⟩
    · rw [← ofInt_mul_toInt]
      exact .of_writeProduct rfl hp hg hreg
    · rw [← BitVec.ofInt_natCast]
      exact .of_writeProduct rfl hp hg hreg
    · rw [← ofInt_mul_toNat]
      exact .of_writeProduct rfl hp hg hreg
  · have hp : s.pairConst brk pr = none := pairConst_eq_none.2 ⟨hreg, hcon⟩
    exact .of_writeProduct rfl ((pairMayRegOrConst_of_none hreg).trans hp) hg hreg

/-- Settles O18: the shifts of words are products with and quotients by powers of two. -/
theorem shifts : Obligations.Shifts := by
  intro s brk rb ra rt pr imm ⟨hn, hg⟩
  have hp : s.pairNone = none := pairNone_eq_none.2 hn
  simp only [← shiftCount_eq, ← shiftLeft_eq_ofNat, ← ushiftRight_eq_ofNat, ← sshiftRight_eq_ofInt]
  exact ⟨.of_writeReg rfl hp hg, .of_writeReg rfl hp hg, .of_writeReg rfl hp hg, .of_writeReg rfl hp hg,
    .of_writeReg rfl hp hg, .of_writeReg rfl hp hg⟩

/-! ## Instructions that write a second register, named by a REG (R145, R257) -/

section
variable {i : Instr} {s : State} {rt : RegNum} {p : Option Refusal} {pr : PredNum} {q : PendReg}

theorem WritesWide.of_writeProduct {x : Int} (he : exec i s = writeProduct p rt x pr s) (hp : p = none)
    (hg : s.pred pr = true) (hr : s.pendReg = some q) : WritesWide i s rt q.rt x := by
  rw [WritesWide, Completes, he, writeProduct, issue_of_true hp hg, extractLsb'_ofInt_low, extractLsb'_ofInt_high]
  exact ⟨_, rfl, writeBoth_effect hr rt _ _⟩

end

theorem regC_of_some {s : State} {q : PendReg} (h : s.pendReg = some q) : s.regC = s.reg q.ra := by
  simp [State.regC, h]

theorem regD_of_some {s : State} {q : PendReg} (h : s.pendReg = some q) : s.regD = s.reg q.rb := by
  simp [State.regD, h]

theorem shiftLeftExtended_completes {s : State} {brk : Bool} {ra rt : RegNum} {n : Nat} {pr : PredNum} {q : PendReg}
    (hp : s.pairMustReg brk pr (fitsShift rt) = none) (hg : s.pred pr = true) (hr : s.pendReg = some q) (hn : n < 128) :
    ∃ t, shiftLeftExtended brk ra rt n pr s = .next t ∧
      Effect s t s.next
        (regsWith (regsWith s.reg rt
            (BitVec.ofNat 128 ((s.reg ra).toNat * 2 ^ n + (s.reg q.ra).toNat / 2 ^ (128 - n))))
          q.rt (BitVec.ofNat 128 ((s.reg ra).toNat / 2 ^ (128 - n)))) s.pred s.byte := by
  rw [shiftLeftExtended, issue_of_true hp hg, shiftFull_low _ _ hn, shiftFull_high _ _ hn, regC_of_some hr]
  exact ⟨_, rfl, writeBoth_effect hr rt _ _⟩

/-- Settles O16: the REG fits a multiply, so that both halves are written; no CON stands before MULI, so its constant is
the immediate. -/
theorem multiplyHigh : Obligations.MultiplyHigh := by
  intro s brk rb ra rt pr imm q h hra hrb hrt
  have hp := pairMayReg_of_pairMustReg (h.pairMustReg (fitsMul_iff.2 ⟨hra, hrb, hrt⟩))
  obtain ⟨hreg, hcon, -, hg, -⟩ := h
  have hc : (s.constant imm).toInt = imm.toInt := by
    rw [constant_of_none hcon]
    exact BitVec.toInt_signExtend_of_le (by decide)
  rw [← hc]
  exact ⟨.of_writeProduct rfl hp hg hreg, .of_writeProduct rfl hp hg hreg, .of_writeProduct rfl hp hg hreg,
    .of_writeProduct rfl ((pairMayRegOrConst_of_some hreg).trans hp) hg hreg⟩

/-- Settles O17: the second pair is the two operands of the REG. -/
theorem dotProducts : Obligations.DotProducts := by
  intro s brk rb ra rt pr q h hrt ab cd
  have hp := h.pairMustReg (fitsDot_iff.2 hrt)
  obtain ⟨hreg, -, -, hg, -⟩ := h
  simp only [ab, cd, ← regC_of_some hreg, ← regD_of_some hreg]
  exact ⟨.of_writeProduct rfl hp hg hreg, .of_writeProduct rfl hp hg hreg, .of_writeProduct rfl hp hg hreg,
    .of_writeProduct rfl hp hg hreg⟩

/-- Settles O19: both forms are the extended shift by a count below 128. -/
theorem extendedLeftShift : Obligations.ExtendedLeftShift := by
  intro s brk rb ra rt pr imm q h hrb hrt lo hi done
  have hp := h.pairMustReg (fitsShift_iff.2 ⟨hrb, hrt⟩)
  obtain ⟨hreg, -, -, hg, -⟩ := h
  refine ⟨?_, shiftLeftExtended_completes hp hg hreg imm.isLt⟩
  rw [← shiftCount_eq]
  exact shiftLeftExtended_completes hp hg hreg (BitVec.isLt _)

/-! ## Right shifts with e = 1 (R155) -/

section
variable {w : IWord} (h25 : w.getLsbD 25 = true) (h : w.getLsbD 26 = true ∨ w.getLsbD 24 = false)
include h25 h

/-- With bit 25 set and no unused bit set a shift has one of its two extended forms (R90). -/
theorem shiftForm_of_extended (r rE im imE : Instr) :
    shiftForm w r rE im imE = .ok (if w.getLsbD 26 then imE else rE) := by
  cases h26 : w.getLsbD 26 with
  | true => simp only [shiftForm, h26, h25, if_true]
  | false =>
    have h24 : bits w 24 1 = 0 := by
      rw [← ofBool_getLsbD, h.resolve_left (Bool.eq_false_iff.1 h26)]
      rfl
    simp only [shiftForm_of_register h26, ifUnusedZero, h24, h25, if_true, Bool.false_eq_true, if_false]

/-- The extended right shifts decode, in either form, to an instruction that only refuses. -/
theorem decodeFunc_of_extendedRightShift (hfn : (bits w 27 6).toNat ∈ [1, 2]) :
    ∃ i, decodeFunc w = .ok i ∧ ∀ s, exec i s = .refused (.extendedRightShift s.pc) := by
  simp only [List.mem_cons, List.not_mem_nil, or_false] at hfn
  obtain hfn | hfn := hfn
  all_goals
    simp only [decodeFunc, hfn, shiftForm_of_extended h25 h]
    exact ⟨_, rfl, fun s => by split <;> rfl⟩

end

/-- Settles O9: the refusal comes before every check of neighbouring words (R294). -/
theorem extendedRightShiftRefused : Obligations.ExtendedRightShiftRefused := by
  intro s w hop hfn h25 h
  obtain ⟨i, hi, hexec⟩ := decodeFunc_of_extendedRightShift h25 h hfn
  rw [runWord_of_ok ((decodeWith_of_op_two hop _).trans hi)]
  exact runInstr_of_refused_early (hexec s) (show 40 ≤ 50 by decide)

/-! ## A REG that is missing (R146, R150, R240) -/

theorem pairMustReg_of_noPrefix {s : State} (h : s.NoPrefix) (brk : Bool) (pr : PredNum) (fits : PendReg → Bool) :
    s.pairMustReg brk pr fits = some (.missingRegPrefix s.pc) := by
  obtain ⟨hreg, hcon⟩ := h
  simp [State.pairMustReg, hreg, hcon]

/-- What the pairing refuses is refused, whatever the guard. -/
theorem issue_of_refused {p : Option Refusal} {r : Refusal} (h : p = some r) (pr : PredNum) (s : State) (body : Result) :
    issue p pr s body = .refused r := by
  simp [issue, h]

/-- Settles O41: each of the instructions issues with a pairing that must have a REG. -/
theorem missingRegRefused : Obligations.MissingRegRefused := by
  intro s brk rb ra rt pr imm hn
  have stop (fits : PendReg → Bool) (body : Result) :
      issue (s.pairMustReg brk pr fits) pr s body = .refused (.missingRegPrefix s.pc) :=
    issue_of_refused (pairMustReg_of_noPrefix hn brk pr fits) pr s body
  simp only [List.forall_mem_cons]
  exact ⟨stop (fitsDot rt) _, stop (fitsDot rt) _, stop (fitsDot rt) _, stop (fitsDot rt) _, stop (fitsShift rt) _,
    stop (fitsShift rt) _, stop fitsStore _, stop fitsStore _, stop fitsStore _, stop fitsStore _, stop fitsStore _,
    List.forall_mem_nil _⟩

/-! ## A REG that its user does not fit (R145, R146, R150, R240, R257) -/

/-- A REG that comes before an instruction that completes fits it: of each user of REG, its own pairing check has passed. -/
theorem exec_regFits {i : Instr} {s t : State} {q : PendReg} {fits : PendReg → Bool} (h : exec i s = .next t)
    (hq : s.pendReg = some q) (hf : regFits i = some fits) : fits q = true := by
  have may {brk : Bool} {pr : PredNum} (hp : s.pairMayReg brk pr fits = none) : fits q = true := by
    obtain ⟨-, hreg⟩ := pairMayReg_eq_none.1 hp
    obtain ⟨-, -, hfit⟩ := hreg q hq
    exact hfit
  have must {brk : Bool} {pr : PredNum} (hp : s.pairMustReg brk pr fits = none) : fits q = true :=
    may (pairMayReg_of_pairMustReg hp)
  cases i with
  | mulS | mulU | mulSu => cases hf; exact may (writeProduct_next h).1
  | muli => cases hf; exact may ((pairMayRegOrConst_of_some hq).symm.trans (writeProduct_next h).1)
  | mulOp4 | mulOp5 | mulOp6 | mulOp7 => cases hf; exact must (writeProduct_next h).1
  | sllE | sllEi => cases hf; exact must (shiftLeftExtended_next h).1
  | stbx | stwx | sttx | stox | sthx => cases hf; exact must (store_next h).1
  | _ => cases hf

section
variable {rt : RegNum} {q : PendReg}

theorem not_targetFits (h : q.rt = rt ∧ rt ≠ 0) : ¬ targetFits rt q = true := by
  obtain ⟨rfl, h0⟩ := h
  exact fun hf => (targetFits_iff.1 hf).elim h0 fun hne => hne rfl

theorem not_fitsDot (h : q.rt = rt ∧ rt ≠ 0) : ¬ fitsDot rt q = true := not_targetFits h

theorem not_fitsMul (h : q.ra ≠ 0 ∨ q.rb ≠ 0 ∨ (q.rt = rt ∧ rt ≠ 0)) : ¬ fitsMul rt q = true := fun hf => by
  obtain ⟨hra, hrb, hrt⟩ := fitsMul_iff.1 hf
  obtain h | h | h := h
  · exact h hra
  · exact h hrb
  · exact not_targetFits h (targetFits_iff.2 hrt)

theorem not_fitsShift (h : q.rb ≠ 0 ∨ (q.rt = rt ∧ rt ≠ 0)) : ¬ fitsShift rt q = true := fun hf => by
  obtain ⟨hrb, hrt⟩ := fitsShift_iff.1 hf
  exact h.elim (fun h => h hrb) fun h => not_targetFits h (targetFits_iff.2 hrt)

theorem not_fitsStore (h : q.rb ≠ 0 ∨ q.rt ≠ 0) : ¬ fitsStore q = true := fun hf => by
  obtain ⟨hrb, hrt⟩ := fitsStore_iff.1 hf
  exact h.elim (fun h => h hrb) fun h => h hrt

end

/-! ## A REG with no user behind it (R250, R291, R324) -/

theorem regFits_of_mayUseReg {j : Instr} (h : j.mayUseReg = false) : regFits j = none := by
  cases j with
  | muli | sllE | sllEi | mulS | mulU | mulSu | mulOp4 | mulOp5 | mulOp6 | mulOp7 | stbx | stwx | sttx | stox | sthx =>
    cases h
  | _ => rfl

theorem guardField_reg (brk : Bool) (rb ra rt : RegNum) (pr : PredNum) : (Instr.reg brk rb ra rt pr).guardField = pr :=
  packR2_pr _ _ _ _ _ _ _

/-- A word that a REG joins is a user of REG with the predicate of the REG. -/
theorem joins_reg {s : State} {brk : Bool} {rb ra rt : RegNum} {pr : PredNum} {j : Instr}
    (h : s.joins (.reg brk rb ra rt pr) j = true) : j.mayUseReg = true ∧ j.guardField = pr := by
  refine ⟨?_, (guardField_eq_of_joins rfl h).trans (guardField_reg brk rb ra rt pr)⟩
  by_contra hu
  simp [State.joins, regFits_of_mayUseReg (Bool.eq_false_of_not_eq_true hu)] at h

/-- What a run can reach is placed by the launch, in populated bytes. -/
theorem instructionAt_placed {s : State} {a : Addr} {j : Instr} (h : s.instructionAt a = some j) :
    a ∈ s.launch.text ∧ ∀ k < 5, s.launch.populated (a + BitVec.ofNat 128 k) = true := by
  unfold State.instructionAt at h
  split at h
  · cases h
  · rename_i hc
    obtain ⟨⟨-, ht⟩, hp⟩ : (¬ s.launch.haltIp = some a ∧ a ∈ s.launch.text) ∧
        ∀ k < 5, s.launch.populated (a + BitVec.ofNat 128 k) = true := by simpa [byteAddrs] using hc
    exact ⟨ht, hp⟩

section
variable {s : State} {brk : Bool} {rb ra rt : RegNum} {pr : PredNum}

/-- A REG that is not refused for what is behind it has a user there: an instruction of the launch that the run reaches,
that may use the REG and carries its predicate. -/
theorem user_of_followed_reg (h : s.unfollowed (.reg brk rb ra rt pr) = false) :
    ∃ j, s.instructionAt s.next = some j ∧ j.mayUseReg = true ∧ j.guardField = pr := by
  simp only [State.unfollowed, footprint_isPrefix (i := .reg brk rb ra rt pr) rfl, Bool.true_and, Bool.not_eq_false',
    Option.any_eq_true] at h
  obtain ⟨j, hj, hjoin⟩ := h
  exact ⟨j, hj, joins_reg hjoin⟩

/-- Each way in which a REG has no user behind it contradicts what `user_of_followed_reg` finds there (R250, R324). -/
theorem unfollowed_reg (h : s.launch.haltIp = some s.next ∨ s.next ∉ s.launch.text ∨
      (∃ k < 5, s.launch.populated (s.next + BitVec.ofNat 128 k) = false) ∨ (∀ j, s.decodedAt s.next ≠ .ok j) ∨
      ∃ j, s.decodedAt s.next = .ok j ∧ (j.mayUseReg = false ∨ j.guardField ≠ pr)) :
    s.unfollowed (.reg brk rb ra rt pr) = true := by
  by_contra hf
  obtain ⟨j, hj, huse, hg⟩ := user_of_followed_reg (Bool.eq_false_of_not_eq_true hf)
  obtain ⟨hhalt, hd⟩ := instructionAt_eq_some hj
  obtain ⟨htext, hpop⟩ := instructionAt_placed hj
  obtain h | h | ⟨k, hk, h⟩ | h | ⟨j', hd', h⟩ := h
  · exact hhalt h
  · exact h htext
  · exact Bool.false_ne_true (h.symm.trans (hpop k hk))
  · exact h j hd
  · obtain rfl : j = j' := Decoded.ok.inj (hd.symm.trans hd')
    exact h.elim (fun hn => Bool.false_ne_true (hn.symm.trans huse)) (fun hn => hn hg)

/-- The one refusal of a REG is DanglingPrefix at its own address. -/
theorem execReg_answer (brk : Bool) (rb ra rt : RegNum) (pr : PredNum) (s : State) :
    (∃ t, execReg brk rb ra rt pr s = .next t) ∨ execReg brk rb ra rt pr s = .refused (.danglingPrefix s.pc) := by
  unfold execReg State.pairNone
  split
  · exact .inr rfl
  · cases h : s.pendReg.isSome || s.pendCon.isSome with
    | true => exact .inr rfl
    | false => exact .inl ⟨_, rfl⟩

/-- A REG with no user behind it is refused at the REG, before all that is behind it is checked (log 7, 13, 29). -/
theorem runInstr_of_unfollowed_reg (h : s.unfollowed (.reg brk rb ra rt pr) = true) :
    runInstr (.reg brk rb ra rt pr) s = .refused (.danglingPrefix s.pc) := by
  rw [runInstr, h, Bool.or_true, if_pos rfl]
  obtain ⟨t, ht⟩ | hr := execReg_answer brk rb ra rt pr s
  · exact congrArg (refuseUnlessEarlier _) ht
  · exact (congrArg (refuseUnlessEarlier _) hr).trans (refuseUnlessEarlier_of_place le_rfl)

end

/-- Settles O40: in the first clause the REG is not for the instruction behind it, or does not fit it; in the second the
REG is unfollowed, and running it is all the step does. -/
theorem misfitRegStops : Obligations.MisfitRegStops := by
  refine ⟨fun s t i q hq hcase h => ?_, fun s brk rb ra rt pr ⟨he, hp, ht⟩ hd hcase => ?_⟩
  · obtain ⟨huse, hpr, -⟩ := (exec_usesPending h).reg q hq
    have fit {fits : PendReg → Bool} (hf : regFits i = some fits) : fits q = true := exec_regFits h hq hf
    obtain hn | hn | ⟨brk, rb, ra, rt, pr, hi, hn⟩ | ⟨brk, imm, ra, rt, pr, hi, hn⟩ | ⟨brk, rb, ra, rt, pr, hi, hn⟩ |
      ⟨brk, rb, ra, rt, pr, hi, hn⟩ | ⟨brk, imm, ra, rt, pr, hi, hn⟩ | ⟨brk, ra, rs, pr, hi, hn⟩ := hcase
    · exact Bool.false_ne_true (hn.symm.trans huse)
    · exact hn hpr
    · exact not_fitsMul hn (fit (by obtain rfl | rfl | rfl := hi <;> rfl))
    · exact not_fitsMul hn (fit (by rw [hi]; rfl))
    · exact not_fitsDot hn (fit (by obtain rfl | rfl | rfl | rfl := hi <;> rfl))
    · exact not_fitsShift hn (fit (by rw [hi]; rfl))
    · exact not_fitsShift hn (fit (by rw [hi]; rfl))
    · exact not_fitsStore hn (fit (by obtain rfl | rfl | rfl | rfl | rfl := hi <;> rfl))
  · have hfetch : s.fetch = .ok (s.wordAt s.pc) := fetch_of_populated hp (List.contains_iff_mem.2 ht)
    have hrun : runInstr (.reg brk rb ra rt pr) s = .refused (.danglingPrefix s.pc) :=
      runInstr_of_unfollowed_reg (unfollowed_reg hcase)
    simp [step, he, advance_of_decodedAt hfetch hd, hrun]

end Sys2Proof.Machine
end

section
/-! PROOFS. Compares and sets (41_compare.md): the named-only words (R175, R176, R181, R281), what the relation and the targets
of a compare or set refuse (R171, R182), and what the compares and sets write (R170 to R174, R177 to R180, R182). -/

namespace Sys2Proof

/-! ## Words of the named-only opcodes (R281) -/

/-- Only words whose major opcode is that of ORI or 11 are Layout C words. -/
theorem decodeWith_of_op_ne {w : IWord} (hcsr : (bits w 33 6).toNat ≠ 9) (hcarry : (bits w 33 6).toNat ≠ 11)
    (layoutC : Bool) : decodeWith layoutC w = decode w := by
  have not_csr : bits w 30 10 ≠ 0b0001001111#10 := fun hc => by
    rw [← extractLsb'_bits w 30 3 (show 3 + 6 ≤ 10 by omega), hc] at hcsr
    exact hcsr rfl
  have not_carry : bits w 27 13 ≠ 0b0001011110111#13 := fun hc => by
    rw [← extractLsb'_bits w 27 6 (show 6 + 6 ≤ 13 by omega), hc] at hcarry
    exact hcarry rfl
  cases layoutC <;> simp [decodeWith, decodeLayoutC, not_csr, not_carry]

end Sys2Proof

namespace Sys2Proof.Machine

section
variable {w : IWord} {m : String}

/-- The decoder recognises each of the opcodes, and the instruction it reads only refuses. -/
theorem decode_of_namedMajor (h : ((bits w 33 6).toNat, m) ∈ namedMajors) :
    ∃ i, decode w = .ok i ∧ ∀ s, exec i s = .refused (.namedOnly m) := by
  simp only [namedMajors, List.mem_cons, List.not_mem_nil, or_false, Prod.mk.injEq] at h
  obtain ⟨hop, rfl⟩ | ⟨hop, rfl⟩ | ⟨hop, rfl⟩ | ⟨hop, rfl⟩ | ⟨hop, rfl⟩ | ⟨hop, rfl⟩ | ⟨hop, rfl⟩ | ⟨hop, rfl⟩ | ⟨hop, rfl⟩ |
    ⟨hop, rfl⟩ | ⟨hop, rfl⟩ | ⟨hop, rfl⟩ := h
  all_goals
    simp only [decode, hop]
    exact ⟨_, rfl, fun _ => rfl⟩

theorem decodeFunc_of_namedFunction (h : ((bits w 27 6).toNat, m) ∈ namedFunctions) :
    ∃ i, decodeFunc w = .ok i ∧ ∀ s, exec i s = .refused (.namedOnly m) := by
  simp only [namedFunctions, List.mem_cons, List.not_mem_nil, or_false, Prod.mk.injEq] at h
  obtain ⟨hfn, rfl⟩ | ⟨hfn, rfl⟩ | ⟨hfn, rfl⟩ | ⟨hfn, rfl⟩ := h
  all_goals
    simp only [decodeFunc, hfn]
    exact ⟨_, rfl, fun _ => rfl⟩

theorem op_ne_of_namedMajor {n : Nat} (h : (n, m) ∈ namedMajors) : n ≠ 9 ∧ n ≠ 11 := by
  have all : ∀ d ∈ namedMajors, d.1 ≠ 9 ∧ d.1 ≠ 11 := by decide
  exact all _ h

end

/-- Settles O8: the word decodes, under either layout, to an instruction that refuses before every check of neighbouring
words. -/
theorem namedOnlyWordsRefused : Obligations.NamedOnlyWordsRefused := by
  intro s w m h
  obtain ⟨i, hi, hexec⟩ : ∃ i, decodeWith s.launch.layoutC w = .ok i ∧ ∀ s, exec i s = .refused (.namedOnly m) := by
    obtain hop | ⟨hop, hfn⟩ := h
    · obtain ⟨hcsr, hcarry⟩ := op_ne_of_namedMajor hop
      rw [decodeWith_of_op_ne hcsr hcarry]
      exact decode_of_namedMajor hop
    · rw [decodeWith_of_op_two hop]
      exact decodeFunc_of_namedFunction hfn
  rw [runWord_of_ok hi]
  exact runInstr_of_refused_early (hexec s) (show 30 ≤ 50 by decide)

/-! ## The instructions that have a relation (R170) -/

/-- An instruction with two predicate targets is a compare to them by its relation. -/
theorem exec_of_predTargets {i : Instr} {pt1 pt2 : PredNum} (h : i.predTargets = some (pt1, pt2)) (s : State) :
    ∃ k rel p a b pr, i.relation = some rel ∧ exec i s = compareTo k rel pt2 pt1 p a b pr s := by
  cases i with
  | cmp | cmpu | cmpi | cmpui => cases h; exact ⟨_, _, _, _, _, _, rfl, rfl⟩
  | _ => cases h

/-- An instruction with a relation and no predicate targets is a set by its relation. -/
theorem exec_of_relation {i : Instr} {rel : Rel} (h : i.relation = some rel) (hp : i.predTargets = none) (s : State) :
    ∃ k rt p a b pr, exec i s = setTo k rel rt p a b pr s := by
  cases i with
  | set | setu | seti | setui => cases h; exact ⟨_, _, _, _, _, _, rfl⟩
  | cmp | cmpu | cmpi | cmpui => cases hp
  | _ => cases h

/-! ## What a compare or set refuses (R171, R182) -/

theorem relationUndefined_eq_false {s : State} {rel : Rel} :
    s.relationUndefined rel = false ↔ (rel ≠ .bc ∧ rel ≠ .bs) ∨ s.launch.bcbs = .bitTest := by
  cases h : s.launch.bcbs <;> simp [State.relationUndefined, h]

theorem relationDefined_eq_true {i : Instr} {rel : Rel} (h : i.relation = some rel) :
    i.relationDefined = true ↔ rel ≠ .bc ∧ rel ≠ .bs := by
  simp [Instr.relationDefined, h]

/-- Only an instruction that has a relation has one that is not explained. -/
theorem relation_of_not_relationDefined {i : Instr} (h : i.relationDefined = false) : ∃ rel, i.relation = some rel := by
  cases hr : i.relation with
  | some rel => exact ⟨rel, rfl⟩
  | none => simp [Instr.relationDefined, hr] at h

theorem relationUndefined_of_refuse {s : State} {i : Instr} {rel : Rel} (hs : s.launch.bcbs = .refuse)
    (h : i.relation = some rel) (hd : i.relationDefined = false) : s.relationUndefined rel = true := by
  refine Bool.eq_true_of_not_eq_false fun hu => ?_
  obtain hrel | hb := relationUndefined_eq_false.1 hu
  · exact Bool.false_ne_true (hd.symm.trans ((relationDefined_eq_true h).2 hrel))
  · cases hs.symm.trans hb

theorem sameTargets_eq_true {pt1 pt2 : PredNum} : sameTargets pt1 pt2 = true ↔ pt1 = pt2 ∧ 1 < pt1.toNat := by
  simp [sameTargets]

section
variable {k : Signedness} {rel : Rel} {pt2 pt1 : PredNum} {rt : RegNum} {p : Option Refusal} {a b : Word} {pr : PredNum}
  {s : State}

theorem compareTo_of_undefined (hu : s.relationUndefined rel = true) :
    compareTo k rel pt2 pt1 p a b pr s = .refused (.undefinedRelation s.pc) :=
  if_pos hu

theorem compareTo_of_sameTargets (hu : s.relationUndefined rel = false) (hs : sameTargets pt1 pt2 = true) :
    compareTo k rel pt2 pt1 p a b pr s = .refused (.samePredicateTargets s.pc) := by
  simp [compareTo, hu, hs]

theorem compareTo_of_admitted (hu : s.relationUndefined rel = false) (hs : sameTargets pt1 pt2 = false) :
    compareTo k rel pt2 pt1 p a b pr s =
      issue p pr s (.next (s.writeTargets pt1 pt2 (relHolds rel k a b)).retire) := by
  simp [compareTo, hu, hs]

theorem setTo_of_undefined (hu : s.relationUndefined rel = true) :
    setTo k rel rt p a b pr s = .refused (.undefinedRelation s.pc) :=
  if_pos hu

theorem setTo_of_admitted (hu : s.relationUndefined rel = false) :
    setTo k rel rt p a b pr s = writeReg p rt (truthWord (relHolds rel k a b)) pr s := by
  simp [setTo, hu]

end

/-- Settles O10: compares and sets check their relation first, and refuse it before every check of neighbouring words. -/
theorem bitRelationsRefused : Obligations.BitRelationsRefused := by
  intro s i hs hd
  obtain ⟨rel, hrel⟩ := relation_of_not_relationDefined hd
  have hu : s.relationUndefined rel = true := relationUndefined_of_refuse hs hrel hd
  have hexec : exec i s = .refused (.undefinedRelation s.pc) := by
    cases hp : i.predTargets with
    | none =>
      obtain ⟨k, rt, p, a, b, pr, he⟩ := exec_of_relation hrel hp s
      exact he.trans (setTo_of_undefined hu)
    | some targets =>
      obtain ⟨k, rel', p, a, b, pr, hrel', he⟩ := exec_of_predTargets hp s
      obtain rfl := Option.some.inj (hrel.symm.trans hrel')
      exact he.trans (compareTo_of_undefined hu)
  exact ⟨hexec, runInstr_of_refused_early hexec (show 40 ≤ 50 by decide)⟩

/-- Settles O11: a compare checks its targets after its relation, and refuses them before every check of neighbouring
words. -/
theorem sameTargetsRefused : Obligations.SameTargetsRefused := by
  intro s i q hq hq1 hrel
  obtain ⟨k, rel, p, a, b, pr, hi, he⟩ := exec_of_predTargets hq s
  have hu : s.relationUndefined rel = false := relationUndefined_eq_false.2 (hrel.imp_left (relationDefined_eq_true hi).1)
  have hexec : exec i s = .refused (.samePredicateTargets s.pc) :=
    he.trans (compareTo_of_sameTargets hu (sameTargets_eq_true.2 ⟨rfl, hq1⟩))
  exact ⟨hexec, runInstr_of_refused_early hexec (show 40 ≤ 50 by decide)⟩

/-! ## The truth value of a relation (R170, R177) -/

/-- The integer that a compare or set of this signedness reads a word as. -/
def Signedness.value (k : Signedness) (a : Word) : Int :=
  match k with
  | .signed => a.toInt
  | .unsigned => a.toNat

theorem Signedness.less_eq (k : Signedness) (a b : Word) : k.less a b = decide (k.value a < k.value b) := by
  cases k with
  | signed => rfl
  | unsigned => simp [Signedness.less, Signedness.value]

theorem Signedness.value_inj (k : Signedness) {a b : Word} : k.value a = k.value b ↔ a = b := by
  cases k with
  | signed => exact BitVec.toInt_inj
  | unsigned => exact Int.ofNat_inj.trans BitVec.toNat_inj

/-- The six explained relations of words are those of the integers they stand for. -/
theorem relHolds_eq_onInts {rel : Rel} (hbc : rel ≠ .bc) (hbs : rel ≠ .bs) (k : Signedness) (a b : Word) :
    relHolds rel k a b = rel.onInts (k.value a) (k.value b) := by
  cases rel with
  | lt => exact k.less_eq a b
  | gt => exact k.less_eq b a
  | ge => simp only [relHolds, Rel.onInts, k.less_eq, ← decide_not, Int.not_lt, ge_iff_le]
  | le => simp only [relHolds, Rel.onInts, k.less_eq, ← decide_not, Int.not_lt]
  | eq => simp only [relHolds, Rel.onInts, k.value_inj, beq_eq_decide]
  | ne => simp only [relHolds, Rel.onInts, ne_eq, k.value_inj, bne, beq_eq_decide, decide_not]
  | bc => exact absurd rfl hbc
  | bs => exact absurd rfl hbs

theorem truthWord_eq_ofNat (t : Bool) : truthWord t = BitVec.ofNat 128 t.toNat := by
  cases t <;> rfl

/-! ## What a compare or set writes (R171, R177) -/

/-- The predicate reads after a compare whose relation has the truth value `t`, by the launch's CMP_PT2. -/
def targetsWith (c : CmpPt2) (f : PredNum → Bool) (pt1 pt2 : PredNum) (t : Bool) : PredNum → Bool :=
  match c with
  | .complement => predsWith (predsWith f pt1 t) pt2 (!t)
  | .same => predsWith (predsWith f pt1 t) pt2 t
  | .unwritten => predsWith f pt1 t

theorem State.pred_setPred (s : State) (pt : PredNum) (t : Bool) : (s.setPred pt t).pred = predsWith s.pred pt t :=
  funext (s.setPred_pred pt t)

theorem State.writeTargets_pred (s : State) (pt1 pt2 : PredNum) (t : Bool) :
    (s.writeTargets pt1 pt2 t).pred = targetsWith s.launch.cmpPt2 s.pred pt1 pt2 t := by
  cases hc : s.launch.cmpPt2 <;> simp [State.writeTargets, targetsWith, hc, State.pred_setPred]

section
variable {i : Instr} {k : Signedness} {rel : Rel} {pt2 pt1 : PredNum} {rt : RegNum} {p : Option Refusal} {a b : Word}
  {pr : PredNum} {s : State}

theorem Completes.of_compareTo (he : exec i s = compareTo k rel pt2 pt1 p a b pr s)
    (hu : s.relationUndefined rel = false) (ht : ¬(pt1 = pt2 ∧ 1 < pt1.toNat)) (hp : p = none) (hg : s.pred pr = true) :
    Completes i s s.next s.reg (targetsWith s.launch.cmpPt2 s.pred pt1 pt2 (relHolds rel k a b)) s.byte := by
  have hs : sameTargets pt1 pt2 = false := Bool.eq_false_iff.2 (mt sameTargets_eq_true.1 ht)
  refine ⟨_, (he.trans (compareTo_of_admitted hu hs)).trans (issue_of_true hp hg), ?_⟩
  constructor <;> simp [State.writeTargets_pred]

/-- At the spec's CMP_PT2 a compare writes the truth value and its complement (R171, D13). -/
theorem WritesPreds.of_compareTo (he : exec i s = compareTo k rel pt2 pt1 p a b pr s)
    (hu : s.relationUndefined rel = false) (ht : ¬(pt1 = pt2 ∧ 1 < pt1.toNat)) (hp : p = none) (hg : s.pred pr = true)
    (hc : s.launch.cmpPt2 = .complement) : WritesPreds i s pt1 (relHolds rel k a b) pt2 (!relHolds rel k a b) := by
  have h := Completes.of_compareTo he hu ht hp hg
  rw [hc] at h
  exact h

theorem WritesReg.of_setTo (he : exec i s = setTo k rel rt p a b pr s) (hu : s.relationUndefined rel = false)
    (hp : p = none) (hg : s.pred pr = true) :
    WritesReg i s rt (BitVec.ofNat 128 (relHolds rel k a b).toNat) := by
  rw [← truthWord_eq_ofNat]
  exact .of_writeReg (he.trans (setTo_of_admitted hu)) hp hg

end

/-- Settles O20: the four compares differ in the signedness and in the second operand. -/
theorem compares : Obligations.Compares := by
  intro s brk rel pt2 pt1 rb ra pr imm hbc hbs ht done
  have hu : s.relationUndefined rel = false := relationUndefined_eq_false.2 (.inl ⟨hbc, hbs⟩)
  have compared {i : Instr} {k : Signedness} {p : Option Refusal} {a b : Word} (hp : p = none) (hg : s.pred pr = true)
      (he : exec i s = compareTo k rel pt2 pt1 p a b pr s) : done i (k.value a) (k.value b) := by
    have h := Completes.of_compareTo he hu ht hp hg
    rw [relHolds_eq_onInts hbc hbs] at h
    exact h
  refine ⟨fun ⟨hn, hg⟩ => ?_, fun ⟨hreg, hcon, hg⟩ => ?_⟩
  · have hp : s.pairNone = none := pairNone_eq_none.2 hn
    exact ⟨compared (k := .signed) hp hg rfl, compared (k := .unsigned) hp hg rfl⟩
  · have hp : s.pairConst brk pr = none := pairConst_eq_none.2 ⟨hreg, hcon⟩
    exact ⟨compared (k := .signed) hp hg rfl, compared (k := .unsigned) hp hg rfl⟩

/-- Settles O21: the four sets differ in the signedness and in the second operand. -/
theorem sets : Obligations.Sets := by
  intro s brk rel rb ra rt pr imm hbc hbs done
  have hu : s.relationUndefined rel = false := relationUndefined_eq_false.2 (.inl ⟨hbc, hbs⟩)
  have written {i : Instr} {k : Signedness} {p : Option Refusal} {a b : Word} (hp : p = none) (hg : s.pred pr = true)
      (he : exec i s = setTo k rel rt p a b pr s) : done i (k.value a) (k.value b) := by
    have h := WritesReg.of_setTo he hu hp hg
    rw [relHolds_eq_onInts hbc hbs] at h
    exact h
  refine ⟨fun ⟨hn, hg⟩ => ?_, fun ⟨hreg, hcon, hg⟩ => ?_⟩
  · have hp : s.pairNone = none := pairNone_eq_none.2 hn
    exact ⟨written (k := .signed) hp hg rfl, written (k := .unsigned) hp hg rfl⟩
  · have hp : s.pairConst brk pr = none := pairConst_eq_none.2 ⟨hreg, hcon⟩
    exact ⟨written (k := .signed) hp hg rfl, written (k := .unsigned) hp hg rfl⟩

/-! ## Bit tests (R182) -/

section
variable {i : Instr} {k : Signedness} {pt2 pt1 : PredNum} {p : Option Refusal} {a b : Word} {pr : PredNum} {s : State}
  (hb : s.launch.bcbs = .bitTest) (hc : s.launch.cmpPt2 = .complement) (ht : ¬(pt1 = pt2 ∧ 1 < pt1.toNat))
  (hp : p = none) (hg : s.pred pr = true)
include hb hc ht hp hg

theorem WritesPreds.of_compareTo_bs (he : exec i s = compareTo k .bs pt2 pt1 p a b pr s) :
    WritesPreds i s pt1 (a.getLsbD (b.toNat % 128)) pt2 (!a.getLsbD (b.toNat % 128)) :=
  .of_compareTo he (relationUndefined_eq_false.2 (.inr hb)) ht hp hg hc

/-- BC writes the complement to Pt1 and so the bit itself to Pt2. -/
theorem WritesPreds.of_compareTo_bc (he : exec i s = compareTo k .bc pt2 pt1 p a b pr s) :
    WritesPreds i s pt1 (!a.getLsbD (b.toNat % 128)) pt2 (a.getLsbD (b.toNat % 128)) := by
  have h := WritesPreds.of_compareTo he (relationUndefined_eq_false.2 (.inr hb)) ht hp hg hc
  rw [relHolds, Bool.not_not] at h
  exact h

end

/-- Settles O22: where BCBS admits the relations they test a bit whatever the signedness. -/
theorem bitTestRelations : Obligations.BitTestRelations := by
  intro s brk pt2 pt1 rb ra rt pr imm6 imm12 hb hc ht bit one
  have hu (rel : Rel) : s.relationUndefined rel = false := relationUndefined_eq_false.2 (.inr hb)
  refine ⟨fun ⟨hn, hg⟩ => ?_, fun ⟨hreg, hcon, hg⟩ => ?_⟩
  case' refine_1 => have hp : s.pairNone = none := pairNone_eq_none.2 hn
  case' refine_2 => have hp : s.pairConst brk pr = none := pairConst_eq_none.2 ⟨hreg, hcon⟩
  all_goals
    exact ⟨.of_compareTo_bs hb hc ht hp hg rfl, .of_compareTo_bc hb hc ht hp hg rfl, .of_compareTo_bs hb hc ht hp hg rfl,
      .of_compareTo_bc hb hc ht hp hg rfl, .of_setTo rfl (hu .bs) hp hg, .of_setTo rfl (hu .bc) hp hg,
      .of_setTo rfl (hu .bs) hp hg, .of_setTo rfl (hu .bc) hp hg⟩

end Sys2Proof.Machine
end

section
/-! PROOFS. Control flow (43_flow.md): the branches that test what bits 5..0 name (R195 to R198, R203), NOP (R201), and the
jump onto the instruction after a prefix (R202, R250). -/

namespace Sys2Proof.Machine

/-! ## Branches (R195 to R198, R203) and NOP (R201) -/

theorem OnlyGoesTo.of_retireTo {i : Instr} {s : State} {a : Addr} (h : exec i s = .next (s.retireTo a)) :
    OnlyGoesTo i s a :=
  ⟨s.retireTo a, h, by constructor <;> simp⟩

/-- Where nothing is pending, a branch goes to its target or on, and does nothing else. -/
theorem OnlyGoesTo.of_branchIf {i : Instr} {s : State} {taken : Bool} {disp : BitVec 27} (hn : s.NoPrefix)
    (h : exec i s = branchIf taken disp s) : OnlyGoesTo i s (if taken then s.target disp else s.next) := by
  refine .of_retireTo (h.trans ?_)
  cases taken <;> simp [branchIf, pairNone_eq_none.2 hn, State.retire]

/-- The test of BNZ and BZ, of a register through its value (R203). -/
theorem State.branchNonZero_eq (s : State) (n : BitVec 6) :
    s.branchNonZero n = match s.launch.branchTest with
      | .predicate => s.pred n
      | .gpr => decide ((s.reg n).toNat ≠ 0) := by
  have hreg : (s.reg n != 0) = decide ((s.reg n).toNat ≠ 0) := by
    rw [Bool.eq_iff_iff, bne_iff_ne, decide_eq_true_iff]
    exact not_congr BitVec.toNat_inj.symm
  unfold State.branchNonZero
  cases s.launch.branchTest with
  | predicate => rfl
  | gpr => exact hreg

/-- P0 and R0 are never non-zero, so that BRA, which tests them for zero, is always taken (R198, R203). -/
theorem State.branchNonZero_zero (s : State) : s.branchNonZero 0 = false := by
  unfold State.branchNonZero
  cases s.launch.branchTest with
  | predicate => exact s.pred_zero
  | gpr => exact bne_eq_false_iff_eq.2 s.reg_zero

/-- Settles O23: the three are one operation, with the test, its complement, and the complement of a test that fails. -/
theorem branches : Obligations.Branches := by
  intro s brk disp pr hn target next test
  have htest : test = s.branchNonZero pr := (s.branchNonZero_eq pr).symm
  have htarget : target = s.target disp := (s.target_eq_moved disp).symm
  have hnext : next = s.next := s.next_eq_moved.symm
  rw [htest, htarget, hnext]
  refine ⟨.of_branchIf hn rfl, ?_, ?_⟩
  · have h : OnlyGoesTo (.bz brk disp pr) s (if !s.branchNonZero pr then s.target disp else s.next) := .of_branchIf hn rfl
    simpa only [Bool.not_eq_true', ← Bool.not_eq_true, ite_not] using h
  · have h : OnlyGoesTo (.bra brk disp) s (if !s.branchNonZero 0 then s.target disp else s.next) := .of_branchIf hn rfl
    simpa only [s.branchNonZero_zero, Bool.not_false, if_true] using h

/-- Settles O25: NOP asks nothing but that no prefix is pending. -/
theorem nopDoesNothing : Obligations.NopDoesNothing := by
  intro s brk ignored hn
  rw [← s.next_eq_moved]
  have hexec : execNop brk ignored s = .next s.retire := by simp [execNop, pairNone_eq_none.2 hn]
  exact .of_retireTo hexec

/-! ## A jump onto the instruction after a prefix (R202, R250) -/

theorem footprintAt_of_decodedAt {s : State} {a : Addr} {i : Instr} (h : s.decodedAt a = .ok i) :
    s.footprintAt a = footprint s.launch i := by
  simp [State.footprintAt, h]

/-- With nothing pending, a prefix right before the pc was jumped over. -/
theorem jumpedOntoUser_of_prefixBefore {s : State} {i : Instr} (hn : s.NoPrefix) (ht : s.pc - Config.ipStride ∈ s.launch.text)
    (hd : s.decodedAt (s.pc - Config.ipStride) = .ok i) (hp : i.isPrefixWord = true) : s.jumpedOntoUser = true := by
  obtain ⟨hreg, hcon⟩ := hn
  simp [State.jumpedOntoUser, hreg, hcon, ht, footprintAt_of_decodedAt hd, footprint_isPrefix hp]

/-- Settles O53: a step that answers a next state was no jump onto a user. -/
theorem jumpOntoUserStops : Obligations.JumpOntoUserStops := by
  intro s t brk rb ra rt pr hn he ht hd h
  obtain ⟨he', -⟩ | ⟨-, i, u, -, -, ⟨-, hj, -⟩, -⟩ := step_next h
  · exact Bool.false_ne_true (he.symm.trans he')
  · exact Bool.false_ne_true (hj.symm.trans (jumpedOntoUser_of_prefixBefore hn ht hd rfl))

end Sys2Proof.Machine
end

section
/-! PROOFS. The register-indexed stores (44_memory_ops.md, R240 to R245): their operand is Ra plus the first operand of the
REG before them (R257), and with it they are stores like the immediate ones. -/

namespace Sys2Proof.Machine

theorem AddrMode.address_indexedByReg {s : State} {q : PendReg} (h : s.pendReg = some q) (ra : RegNum) :
    (AddrMode.indexedByReg ra).address s = s.reg ra + s.reg q.ra := by
  rw [AddrMode.address, regC_of_some h]

/-- Settles O30: each is `store_completes` at its size, with a REG that fits a store. -/
theorem storesIndexed : Obligations.StoresIndexed := by
  intro s brk ra rs pr q hwf h hrb hrt a
  have hp := h.pairMustReg (fitsStore_iff.2 ⟨hrb, hrt⟩)
  obtain ⟨hreg, -, -, hg, -⟩ := h
  have ha : a = (AddrMode.indexedByReg ra).address s := (AddrMode.address_indexedByReg hreg ra).symm
  rw [ha]
  have done {n : Nat} (hn : n ≤ 16) (hw : s.MayWrite ((AddrMode.indexedByReg ra).address s) n) :=
    store_completes rs hwf hn hp hg hw
  exact ⟨done (by decide), done (by decide), done (by decide), done (by decide), done le_rfl⟩

end Sys2Proof.Machine
end

section
/-! PROOFS. The prefixes (45_special.md): the constant prefixes CON1 to CON4, refused or admitted by CON_A (R253 to R255). -/

namespace Sys2Proof.Machine

/-! ## The chunks pending before a constant prefix (R253) -/

theorem pendingChunks_of_none {s : State} (h : s.pendCon = none) : s.pendingChunks = [] := by
  rw [State.pendingChunks, h]

theorem pendingChunks_of_some {s : State} {p : PendCon} (h : s.pendCon = some p) : s.pendingChunks = p.chunks := by
  rw [State.pendingChunks, h]

/-! ## Constant prefixes (R253 to R255) -/

/-- Under either BREAK_POLARITY only a word with its break bit set is cut off from the one before it. -/
theorem cutOff_false (s : State) : s.cutOff false = false :=
  Bool.false_and _

section
variable {s : State} {num : ConNum} {brk : Bool} {imm : BitVec 27} {pr : PredNum}

/-- CON_A is asked before the break, the pending prefixes and the predicate. -/
theorem constantChunk_of_refuse (h : s.launch.conA = .refuse) :
    constantChunk num brk imm pr s = .refused (.constantPrefix s.pc) :=
  if_pos h

/-- The converse of `constantChunk_next`. -/
theorem constantChunk_of_free (hf : s.launch.conA = .free) (hb : s.cutsNext brk = false) (hp : s.pairConst brk pr = none) :
    constantChunk num brk imm pr s =
      .next { s with pc := s.next, pendCon := some ⟨s.pendingChunks ++ [(num, imm)], pr⟩ } := by
  simp [constantChunk, hf, hb, hp]

end

/-- Settles O38: the four are `constantChunk` at their number. Its refusal comes before every check of neighbouring words;
admitted, it stands first or is joined to the constant prefixes before it. -/
theorem constantPrefixes : Obligations.ConstantPrefixes := by
  intro s brk imm pr num i
  have hexec : exec i s = constantChunk num brk imm pr s := by cases num <;> rfl
  refine ⟨fun hr => ?_, fun hf hb hreg => ?_⟩
  · have hrefused : exec i s = .refused (.constantPrefix s.pc) := hexec.trans (constantChunk_of_refuse hr)
    exact ⟨hrefused, runInstr_of_refused_early hrefused (show 30 ≤ 50 by decide)⟩
  · have hadmitted := fun hp => hexec.trans (constantChunk_of_free hf (cutsNext_eq_false.2 hb) hp)
    rw [s.next_eq_moved] at hadmitted
    refine ⟨fun hcon => ?_, fun p hcon hpr hbrk => ?_⟩
    · rw [pendingChunks_of_none hcon] at hadmitted
      exact hadmitted (pairConst_of_noPrefix ⟨hreg, hcon⟩ brk pr)
    · rw [pendingChunks_of_some hcon] at hadmitted
      refine hadmitted (pairConst_eq_none.2 ⟨hreg, fun q hq => ?_⟩)
      obtain rfl : p = q := Option.some.inj (hcon.symm.trans hq)
      exact ⟨hpr, hbrk ▸ cutOff_false s⟩

end Sys2Proof.Machine
end

section
/-! PROOFS. The decimal floating-point datum (46_float_named.md): the declet code (R274), the coefficient that seven declets
spell (R273), and which data are infinite, NaN or finite (R271, R272, R275 to R277). -/

namespace Sys2Proof.Machine

/-! ## The declet code (R274) -/

theorem digitSmall_lt (a b c : Bool) : digitSmall a b c < 10 := by
  have := a.toNat_lt
  have := b.toNat_lt
  have := c.toNat_lt
  simp only [digitSmall]
  omega

theorem digitLarge_lt (i : Bool) : digitLarge i < 10 := by
  have := i.toNat_lt
  simp only [digitLarge]
  omega

theorem decletDigits_lt (d : BitVec 10) :
    (decletDigits d).1 < 10 ∧ (decletDigits d).2.1 < 10 ∧ (decletDigits d).2.2 < 10 := by
  simp only [decletDigits]
  split <;> simp only [digitSmall_lt, digitLarge_lt, and_self]

theorem decletValue_lt (d : BitVec 10) : decletValue d < 1000 := by
  obtain ⟨hundreds, tens, ones⟩ := decletDigits_lt d
  simp only [decletValue]
  omega

/-- The bits of a declet written out, from b9 on the left to b0. -/
theorem getLsbD_declet (b9 b8 b7 b6 b5 b4 b3 b2 b1 b0 : Bool) (k : Nat) :
    BitVec.getLsbD (w := 10) (BitVec.ofBoolListBE [b9, b8, b7, b6, b5, b4, b3, b2, b1, b0]) k =
      (decide (k < 10) && [b9, b8, b7, b6, b5, b4, b3, b2, b1, b0].getD (9 - k) false) :=
  BitVec.getLsbD_ofBoolListBE

/-- Settles O60: the checks are evaluated; a row of the table is the branch of `decletDigits` that its fixed bits select. -/
theorem decletCode : Obligations.DecletCode := by
  refine ⟨by decide, fun a b c d e f g h i x y => ?_⟩
  refine ⟨?_, ?_, ?_, ?_, ?_, ?_, ?_, ?_⟩ <;> simp only [decletDigits, getLsbD_declet] <;> rfl

/-! ## The integer that the declets spell (R273) -/

theorem decletsValue_lt (m : BitVec 70) (n : Nat) : decletsValue m n < 1000 ^ n := by
  induction n with
  | zero => exact Nat.one_pos
  | succ n ih =>
    have hdeclet := decletValue_lt (m.extractLsb' (10 * n) 10)
    calc decletsValue m (n + 1)
        < decletValue (m.extractLsb' (10 * n) 10) * 1000 ^ n + 1000 ^ n := Nat.add_lt_add_left ih _
      _ = (decletValue (m.extractLsb' (10 * n) 10) + 1) * 1000 ^ n := (Nat.succ_mul _ _).symm
      _ ≤ 1000 * 1000 ^ n := Nat.mul_le_mul_right _ hdeclet
      _ = 1000 ^ (n + 1) := (Nat.pow_succ').symm

/-- The declet above the first `n` weighs a multiple of 1000 at every place below it, so it changes none of them. -/
theorem decletsValue_place (m : BitVec 70) {k n : Nat} (hk : k < n) :
    decletsValue m n / 1000 ^ k % 1000 = decletValue (m.extractLsb' (10 * k) 10) := by
  induction n with
  | zero => exact absurd hk (Nat.not_lt_zero k)
  | succ n ih =>
    rw [decletsValue]
    obtain hkn | rfl := Nat.lt_succ_iff_lt_or_eq.1 hk
    · have hweight : 1000 ^ n = 1000 ^ k * (1000 ^ (n - k - 1) * 1000) := by
        rw [← Nat.pow_succ, ← Nat.pow_add]
        congr 1
        omega
      rw [hweight, Nat.mul_left_comm, Nat.mul_add_div (by positivity), ← Nat.mul_assoc, Nat.mul_add_mod_self_right, ih hkn]
    · rw [Nat.mul_comm, Nat.mul_add_div (by positivity), Nat.div_eq_of_lt (decletsValue_lt m k), Nat.add_zero,
        Nat.mod_eq_of_lt (decletValue_lt _)]

theorem Float80.significand_declet (f : Float80) {k : Nat} (hk : k < 7) :
    f.significand.extractLsb' (10 * k) 10 = f.extractLsb' (10 * k) 10 :=
  BitVec.extractLsb'_extractLsb'_of_le (by omega)

/-! ## The three kinds of datum -/

theorem Float80.value_of_finite {f : Float80} (h : f.exponentField ≠ 511) :
    f.value = .finite f.positive (significandInteger f.significand) ((f.exponentField.toNat : Int) - 255 - 20) :=
  if_neg h

theorem Float80.value_eq_infinity {f : Float80} {positive : Bool} :
    f.value = .infinity positive ↔ f.exponentField = 511 ∧ f.significand = 0 ∧ f.positive = positive := by
  rw [value]
  split_ifs with he hm
  · simp only [he, hm, FloatValue.infinity.injEq, true_and]
  · simp only [hm, false_and, and_false]
  · simp only [he, false_and]

theorem Float80.value_eq_nan {f : Float80} : f.value = .nan ↔ f.exponentField = 511 ∧ f.significand ≠ 0 := by
  rw [value]
  split_ifs with he hm
  · simp only [hm, ne_eq, not_true_eq_false, and_false]
  · exact iff_of_true rfl ⟨he, hm⟩
  · simp only [he, false_and]

/-- Settles O58: the fields are those of the datum; the two printed words are evaluated. -/
theorem infinityAndNan : Obligations.InfinityAndNan :=
  ⟨fun _ _ => Float80.value_eq_infinity, fun _ => Float80.value_eq_nan, by decide, by decide⟩

/-- Settles O59: the coefficient is the integer of the seven declets; one digit stands before the point and twenty behind it,
which takes the bias from 255 to 275. -/
theorem finiteData : Obligations.FiniteData := by
  intro f he
  refine ⟨significandInteger f.significand, decletsValue_lt f.significand 7, ?_, fun k hk => ?_⟩
  · rw [Float80.value_of_finite he, Int.sub_sub]
    rfl
  · rw [significandInteger, decletsValue_place f.significand hk, f.significand_declet hk]

end Sys2Proof.Machine
end

section
/-! PROOFS. Exceptions (60_exceptions.md): no instruction raises a fault (R290, R291). Each shared operation answers a next
state or a refusal, and each instruction is one of them or is refused. -/

namespace Sys2Proof.Machine

/-! ## No shared operation raises a fault -/

section
variable {p : Option Refusal} {pr : PredNum} {s : State} {f : Fault}

/-- Behind its pairing check and its guard, an instruction that always completes raises no fault (R8, R294). -/
theorem issue_next_not_fault {t : State} : issue p pr s (.next t) ≠ .fault f :=
  issue_not_fault nofun

theorem compareTo_not_fault {k : Signedness} {rel : Rel} {pt2 pt1 : PredNum} {a b : Word} :
    compareTo k rel pt2 pt1 p a b pr s ≠ .fault f := by
  unfold compareTo
  split_ifs
  · nofun
  · nofun
  · exact issue_next_not_fault

theorem setTo_not_fault {k : Signedness} {rel : Rel} {rt : RegNum} {a b : Word} :
    setTo k rel rt p a b pr s ≠ .fault f := by
  unfold setTo
  split_ifs
  · nofun
  · exact issue_next_not_fault

theorem branchIf_not_fault {taken : Bool} {disp : BitVec 27} : branchIf taken disp s ≠ .fault f := by
  unfold branchIf
  split <;> nofun

theorem execNop_not_fault {brk : Bool} {ignored : BitVec 33} : execNop brk ignored s ≠ .fault f := by
  unfold execNop
  split <;> nofun

/-- An access that is not admitted is refused, and no fault (R51, R54). -/
theorem load_not_fault {e : Ext} {n : Nat} {m : AddrMode} {rt : RegNum} : load e n m rt p pr s ≠ .fault f := by
  unfold load
  refine issue_not_fault ?_
  split <;> nofun

/-- An access that is not admitted is refused, and no fault (R51, R54, R64). -/
theorem store_not_fault {n : Nat} {m : AddrMode} {rs : RegNum} : store n m rs p pr s ≠ .fault f := by
  unfold store
  refine issue_not_fault ?_
  split <;> nofun

theorem execReg_not_fault {brk : Bool} {rb ra rt : RegNum} : execReg brk rb ra rt pr s ≠ .fault f := by
  obtain ⟨t, ht⟩ | hr := execReg_answer brk rb ra rt pr s
  · simp [ht]
  · simp [hr]

theorem constantChunk_not_fault {num : ConNum} {brk : Bool} {imm : BitVec 27} :
    constantChunk num brk imm pr s ≠ .fault f := by
  unfold constantChunk
  split_ifs
  · nofun
  · nofun
  · split <;> nofun

end

/-! ## No instruction raises a fault (R290) -/

theorem exec_not_fault (i : Instr) (s : State) (f : Fault) : exec i s ≠ .fault f := by
  cases i with
  | sys | mod | flt | fcmp | cmp19 | fcmpi | cmpi23 | fdp | ffdp | fseti | fset | ldhr | ldhrx | ldchk | sthc | sthcx | srlE
    | srlEi | sraE | sraEi | csr | carry => exact nofun
  | add | sub | and | or | xor | nand | nor | xnor | addi | subfi | andi | ori | xori | sll | slli | srl | srli | sra | srai =>
    exact issue_next_not_fault
  | mulS | mulU | mulSu | muli | mulOp4 | mulOp5 | mulOp6 | mulOp7 | sllE | sllEi => exact issue_next_not_fault
  | cmp | cmpu | cmpi | cmpui => exact compareTo_not_fault
  | set | setu | seti | setui => exact setTo_not_fault
  | bnz | bz | bra => exact branchIf_not_fault
  | bsr | jmr => exact issue_next_not_fault
  | nop brk ignored => exact execNop_not_fault (brk := brk) (ignored := ignored)
  | ldb | ldbu | ldw | ldwu | ldt | ldtu | ldo | ldou | ldh | ldbx | ldbux | ldwx | ldwux | ldtx | ldtux | ldox | ldoux
    | ldhx => exact load_not_fault
  | stb | stw | stt | sto | sth | stbx | stwx | sttx | stox | sthx => exact store_not_fault
  | reg => exact execReg_not_fault
  | con1 | con2 | con3 | con4 => exact constantChunk_not_fault

/-- Settles O45: instruction by instruction, by the shared operation that it is. -/
theorem noInstructionFaults : Obligations.NoInstructionFaults :=
  fun s i f => exec_not_fault i s f

end Sys2Proof.Machine
end

section
/-! PROOFS. Reset and hazards (70_reset_and_hazards.md): the end of a run (R324) and the conditions on an issue group
(R326): which words it has (log 14), what it forbids the instruction at the pc, and the accesses it remembers (log 15). -/

namespace Sys2Proof.Machine

/-! ## The end of a run, and a step before it (R324) -/

/-- Settles O48: at HALT_IP the run has ended. -/
theorem runEndsAtHaltIp : Obligations.RunEndsAtHaltIp := by
  intro s h
  have hended : s.ended = true := by simp [State.ended, h]
  exact if_pos hended

/-- What a step that answers a next state says of the group, while the run goes on: no condition of R326 fails at the
instruction at the pc, and `accessesAfter` are the accesses remembered. -/
theorem issues_of_step_next {s u : State} (he : s.ended = false) (h : step s = .next u) :
    ∃ i, s.decodedAt s.pc = .ok i ∧ s.Issues i ∧ u.groupAccesses = s.accessesAfter i := by
  obtain ⟨he', -⟩ | ⟨-, i, t, -, hi, hissues, -, rfl, -⟩ := step_next h
  · cases he.symm.trans he'
  · exact ⟨i, hi, hissues, State.closeStep_groupAccesses i s t⟩

/-- The same of an instruction that is known to stand at the pc. -/
theorem issues_of_decodedAt {s u : State} {i : Instr} (he : s.ended = false) (hi : s.decodedAt s.pc = .ok i)
    (h : step s = .next u) : s.Issues i ∧ u.groupAccesses = s.accessesAfter i := by
  obtain ⟨i', hi', hissues⟩ := issues_of_step_next he h
  obtain rfl : i = i' := Decoded.ok.inj (hi.symm.trans hi')
  exact hissues

theorem step_ne_next_of_groupHazard {s t : State} {i : Instr} (he : s.ended = false) (hi : s.decodedAt s.pc = .ok i)
    (hg : s.groupHazard i = true) : step s ≠ .next t := by
  intro h
  obtain ⟨⟨-, -, -, hno, -⟩, -⟩ := issues_of_decodedAt he hi h
  cases hg.symm.trans hno

theorem step_ne_next_of_accessHazard {s t : State} {i : Instr} (he : s.ended = false) (hi : s.decodedAt s.pc = .ok i)
    (ha : s.accessHazard i = true) : step s ≠ .next t := by
  intro h
  obtain ⟨⟨-, -, -, -, hno⟩, -⟩ := issues_of_decodedAt he hi h
  cases ha.symm.trans hno

/-! ## The words of a group (R99, R326) -/

/-- At the default of BREAK_POLARITY the break is bit 39 of the earlier word (R82, R99). -/
theorem breakBetween_of_after {s : State} (h : s.launch.breakPolarity = .after) (a : Addr) :
    s.breakBetween a = (s.wordAt a).getLsbD 39 := by
  simp [State.breakBetween, h, brkOf]

/-- The address `k` instructions before `a`; before the pc it is `State.back`. -/
def wordsBefore (a : Addr) (k : Nat) : Addr := a - BitVec.ofNat 128 (5 * k)

theorem back_eq_wordsBefore (s : State) (k : Nat) : s.back k = wordsBefore s.pc k := rfl

theorem wordsBefore_one (a : Addr) : wordsBefore a 1 = a - Config.ipStride := rfl

theorem wordsBefore_succ (a : Addr) (k : Nat) : wordsBefore a (k + 1) = wordsBefore (a - Config.ipStride) k := by
  have hdist : BitVec.ofNat 128 (5 * (k + 1)) = Config.ipStride + BitVec.ofNat 128 (5 * k) := by
    rw [Nat.mul_succ, Nat.add_comm, BitVec.ofNat_add]
    rfl
  rw [wordsBefore, wordsBefore, hdist, sub_sub]

/-- The `k` words before `a` belong to its group: the launch placed them, and no break stands between them and `a`. -/
def State.Unbroken (s : State) (a : Addr) (k : Nat) : Prop :=
  ∀ m, 1 ≤ m → m ≤ k → wordsBefore a m ∈ s.launch.text ∧ s.breakBetween (wordsBefore a m) = false

/-- All but the nearest of them belong to the group of the nearest. -/
theorem State.Unbroken.tail {s : State} {a : Addr} {k : Nat} (h : s.Unbroken a (k + 1)) :
    s.Unbroken (a - Config.ipStride) k := by
  intro m hm hk
  rw [← wordsBefore_succ]
  exact h (m + 1) (by omega) (by omega)

theorem earlierInGroup_of_break {s : State} {a : Addr} (h : s.breakBetween (a - Config.ipStride) = true) (fuel : Nat) :
    s.earlierInGroup fuel a = [] := by
  cases fuel with
  | zero => rfl
  | succ n => simp [State.earlierInGroup, h]

theorem earlierInGroup_succ {s : State} {a : Addr} (ht : a - Config.ipStride ∈ s.launch.text)
    (hb : s.breakBetween (a - Config.ipStride) = false) (fuel : Nat) :
    s.earlierInGroup (fuel + 1) a =
      s.footprintAt (a - Config.ipStride) :: s.earlierInGroup fuel (a - Config.ipStride) := by
  simp [State.earlierInGroup, ht, hb]

/-- The walk from `a` finds the words of its group at their places, the nearest first. -/
theorem earlierInGroup_getElem? {s : State} {a : Addr} {fuel k : Nat} (hf : k < fuel) (h : s.Unbroken a (k + 1)) :
    (s.earlierInGroup fuel a)[k]? = some (s.footprintAt (wordsBefore a (k + 1))) := by
  induction k generalizing a fuel with
  | zero =>
    obtain ⟨n, rfl⟩ : ∃ n, fuel = n + 1 := Nat.exists_eq_succ_of_ne_zero (by omega)
    obtain ⟨ht, hb⟩ := h 1 le_rfl le_rfl
    rw [earlierInGroup_succ ht hb]
    rfl
  | succ k ih =>
    obtain ⟨n, rfl⟩ : ∃ n, fuel = n + 1 := Nat.exists_eq_succ_of_ne_zero (by omega)
    obtain ⟨ht, hb⟩ := h 1 le_rfl (by omega)
    rw [earlierInGroup_succ ht hb, List.getElem?_cons_succ, ih (by omega) h.tail, ← wordsBefore_succ]

/-- Dropping from the front stops at an element that is kept, and keeps what stands from there on. -/
theorem mem_dropWhile_of_getElem? {α : Type} {p : α → Bool} {l : List α} {m k : Nat} {x y : α} (hm : l[m]? = some x)
    (hx : p x = false) (hmk : m ≤ k) (hk : l[k]? = some y) : y ∈ l.dropWhile p := by
  induction l generalizing m k with
  | nil => cases hk
  | cons z l ih =>
    cases hz : p z with
    | false =>
      rw [List.dropWhile_cons_of_neg (by simp [hz])]
      exact List.mem_of_getElem? hk
    | true =>
      rw [List.dropWhile_cons_of_pos hz]
      cases m with
      | zero =>
        obtain rfl : z = x := Option.some.inj hm
        cases hz.symm.trans hx
      | succ m =>
        obtain ⟨k, rfl⟩ : ∃ n, k = n + 1 := Nat.exists_eq_succ_of_ne_zero (by omega)
        exact ih hm (by omega) hk

/-! ## A dependence in the group (R326 (a), (e)) -/

theorem sharesBut_of_mem {hardwired xs ys : List (BitVec 6)} {x : BitVec 6} (hx : x ∈ xs) (hy : x ∈ ys)
    (hh : x ∉ hardwired) : sharesBut hardwired xs ys = true :=
  List.any_eq_true.2 ⟨x, hx, by simp [hy, hh]⟩

/-- What R326 (a) says of two instructions of one group is a dependence of the later one. -/
theorem dependsOn_of_conflict {f g : Footprint}
    (h : (∃ r, r ≠ 0 ∧ r ∈ f.regWrites ∧ (r ∈ g.regReads ∨ r ∈ g.regWrites)) ∨
      ∃ p, p ≠ 0 ∧ p ≠ 1 ∧ p ∈ f.predWrites ∧ (p ∈ g.predReads ∨ p ∈ g.predWrites)) : g.dependsOn f = true := by
  rw [Footprint.dependsOn, Bool.or_eq_true]
  obtain ⟨r, h0, hw, hg⟩ | ⟨p, h0, h1, hw, hg⟩ := h
  · exact .inl (sharesBut_of_mem hw (List.mem_append.2 hg) (by simpa using h0))
  · exact .inr (sharesBut_of_mem hw (List.mem_append.2 hg) (by simpa using And.intro h0 h1))

/-- The word `k` before the pc counts against the instruction at the pc where some word from it on is no prefix. -/
theorem groupHazard_of_dependsOn {s : State} {i j i' : Instr} {k m : Nat} (hk : k < s.launch.text.length)
    (hu : s.Unbroken s.pc (k + 1)) (hm : m ≤ k) (hi' : s.decodedAt (s.back (m + 1)) = .ok i')
    (hp : (footprint s.launch i').isPrefix = false) (hi : s.decodedAt (s.back (k + 1)) = .ok i)
    (hd : (footprint s.launch j).dependsOn (footprint s.launch i) = true) : s.groupHazard j = true := by
  have hplace (n : Nat) (hn : n ≤ k) {i : Instr} (hi : s.decodedAt (s.back (n + 1)) = .ok i) :
      (s.earlierInGroup s.launch.text.length s.pc)[n]? = some (footprint s.launch i) := by
    rw [earlierInGroup_getElem? (by omega) fun l hl hln => hu l hl (by omega), ← back_eq_wordsBefore,
      footprintAt_of_decodedAt hi]
  have hcounts := mem_dropWhile_of_getElem? (hplace m hm hi') hp hm (hplace k le_rfl hi)
  rw [State.groupHazard, Bool.or_eq_true]
  exact .inr (List.any_eq_true.2 ⟨_, hcounts, hd⟩)

/-- Settles O54: the word `k` before the pc is in the group, is not among the prefixes dropped from it, and `j` depends on
it. -/
theorem groupDependencyStops : Obligations.GroupDependencyStops := by
  intro s t i j k he hpol h1 hk hgroup hother hi hj f g hconflict
  obtain ⟨m, i', hm1, hmk, hi', hp⟩ := hother
  obtain ⟨k, rfl⟩ : ∃ n, k = n + 1 := Nat.exists_eq_succ_of_ne_zero (by omega)
  obtain ⟨m, rfl⟩ : ∃ n, m = n + 1 := Nat.exists_eq_succ_of_ne_zero (by omega)
  have hu : s.Unbroken s.pc (k + 1) := fun l hl hlk => by
    rw [breakBetween_of_after hpol, ← back_eq_wordsBefore]
    exact hgroup l hl hlk
  exact step_ne_next_of_groupHazard he hj
    (groupHazard_of_dependsOn (by omega) hu (by omega) hi' hp hi (dependsOn_of_conflict hconflict))

/-! ## A branch in the group (R326 (b)) -/

/-- A branch is refused where its group goes on behind it. -/
theorem groupHazard_of_branch {s : State} {i : Instr} (hbr : (footprint s.launch i).branch = true)
    (hb : s.breakBetween s.pc = false) (ht : s.next ∈ s.launch.text) : s.groupHazard i = true := by
  simp [State.groupHazard, State.lastOfGroup, hbr, hb, ht]

/-- Every instruction is refused where a branch stands right before it in its group. -/
theorem groupHazard_of_branchBefore {s : State} {i : Instr} (hi : s.decodedAt (s.pc - Config.ipStride) = .ok i)
    (hbr : (footprint s.launch i).branch = true) (hb : s.breakBetween (s.pc - Config.ipStride) = false)
    (ht : s.pc - Config.ipStride ∈ s.launch.text) (j : Instr) : s.groupHazard j = true := by
  obtain ⟨n, hn⟩ := Nat.exists_eq_succ_of_ne_zero (List.length_pos_of_mem ht).ne'
  simp [State.groupHazard, hn, earlierInGroup_succ ht hb, footprintAt_of_decodedAt hi, hbr]

/-- Settles O55: at the branch the group goes on behind it; behind it the walk finds the branch first. -/
theorem groupBranchIsLast : Obligations.GroupBranchIsLast := by
  intro s t i he hpol hbr hcase
  obtain ⟨hi, hb, ht⟩ | ⟨hi, hb, ht⟩ := hcase
  · exact step_ne_next_of_groupHazard he hi (groupHazard_of_branch hbr ((breakBetween_of_after hpol _).trans hb) ht)
  · intro h
    obtain ⟨j, hj, -⟩ := issues_of_step_next he h
    exact step_ne_next_of_groupHazard he hj
      (groupHazard_of_branchBefore hi hbr ((breakBetween_of_after hpol _).trans hb) ht j) h

/-! ## The accesses of the group (R326 (d); log 15) -/

theorem mem_byteAddrs {a b : Addr} {n : Nat} (h : (b - a).toNat < n) : b ∈ byteAddrs a n :=
  List.mem_map.2 ⟨(b - a).toNat, List.mem_range.2 h, add_ofNat_sub a b⟩

/-- Two accesses with a byte in common conflict where one of them is a store. -/
theorem conflicts_of_common_byte {x y : Access} {b : Addr} (hs : (x.store || y.store) = true)
    (hx : (b - x.addr).toNat < x.size) (hy : (b - y.addr).toNat < y.size) : x.conflicts y = true := by
  rw [Access.conflicts, hs, Bool.true_and, List.any_eq_true]
  exact ⟨b, mem_byteAddrs hx, List.contains_iff_mem.2 (mem_byteAddrs hy)⟩

theorem cutOff_of_after {s : State} (h : s.launch.breakPolarity = .after) (brk : Bool) : s.cutOff brk = false := by
  simp [State.cutOff, h]

/-- At the default of BREAK_POLARITY no instruction begins a group by its own B (R99). -/
theorem openAccesses_of_after {s : State} (h : s.launch.breakPolarity = .after) (i : Instr) :
    s.openAccesses i = s.groupAccesses := by
  simp [State.openAccesses, cutOff_of_after h]

section
variable {s : State} {i : Instr}

theorem accessOf_of_true {m : AddrMode} {n : Nat} {isStore : Bool} {pr : PredNum}
    (hm : memoryOperand i = some (m, n, isStore, pr)) (hg : s.pred pr = true) :
    s.accessOf i = some ⟨m.address s, n, isStore⟩ := by
  simp [State.accessOf, hm, hg]

theorem accessHazard_of_conflicts {x y : Access} (ha : s.accessOf i = some x) (hy : y ∈ s.openAccesses i)
    (hc : x.conflicts y = true) : s.accessHazard i = true := by
  rw [State.accessHazard, ha]
  exact List.any_eq_true.2 ⟨y, hy, hc⟩

theorem accessHazard_of_noAccesses (h : s.openAccesses i = []) : s.accessHazard i = false := by
  unfold State.accessHazard
  split
  · rfl
  · simp [h]

/-- Within a group the accesses made before are kept, and that of the instruction joins them. -/
theorem accessesAfter_of_noBreak (hb : i.brk = false) (hbr : (footprint s.launch i).branch = false) :
    s.accessesAfter i = s.openAccesses i ++ (s.accessOf i).toList := by
  simp [State.accessesAfter, State.cutsNext, hb, hbr]

/-- A break after the instruction ends its group, and its accesses are forgotten. -/
theorem accessesAfter_of_break (hpol : s.launch.breakPolarity = .after) (hb : i.brk = true) : s.accessesAfter i = [] := by
  simp [State.accessesAfter, State.cutsNext, hpol, hb]

end

/-- Settles O56: the access at the pc conflicts with `x`; and what a step remembers is what `accessesAfter` says. -/
theorem groupOverlapStops : Obligations.GroupOverlapStops := by
  refine ⟨fun s t i m n isStore pr x b he hpol hi hm hg hx hs hbx hbm => ?_, fun s u i he hpol hi hb hbr h => ?_⟩
  · have hmem : x ∈ s.openAccesses i := (openAccesses_of_after hpol i).symm ▸ hx
    have hc : Access.conflicts ⟨m.address s, n, isStore⟩ x = true :=
      conflicts_of_common_byte ((Bool.or_comm _ _).trans hs) hbm hbx
    exact step_ne_next_of_accessHazard he hi (accessHazard_of_conflicts (accessOf_of_true hm hg) hmem hc)
  · obtain ⟨-, hu⟩ := issues_of_decodedAt he hi h
    rw [hu, accessesAfter_of_noBreak hb hbr, openAccesses_of_after hpol]
    refine ⟨fun x hx => List.mem_append_left _ hx, fun m n isStore pr hm hg => List.mem_append_right _ ?_⟩
    rw [accessOf_of_true hm hg]
    exact List.mem_singleton.2 rfl

/-! ## A group of one instruction (R99, R326) -/

/-- Behind a break and before one, an instruction has no other in its group. -/
theorem groupHazard_of_breaks {s : State} (before : s.breakBetween (s.pc - Config.ipStride) = true)
    (after : s.breakBetween s.pc = true) (i : Instr) : s.groupHazard i = false := by
  simp [State.groupHazard, State.lastOfGroup, after, earlierInGroup_of_break before]

/-- Settles O57: no word but its own is in the group, and the break after it forgets the accesses. -/
theorem breakEndsGroup : Obligations.BreakEndsGroup := by
  intro s i hpol hbefore hafter
  refine ⟨?_, fun hnone => ?_, accessesAfter_of_break hpol⟩
  · exact groupHazard_of_breaks ((breakBetween_of_after hpol _).trans hbefore)
      ((breakBetween_of_after hpol _).trans hafter) i
  · exact accessHazard_of_noAccesses ((openAccesses_of_after hpol i).trans hnone)

end Sys2Proof.Machine
end
